-- ==== Sys2Proof/Word.lean ====
section
/-!
DEFINITION. The word types of the block's interface and of its duration registers.

Bits are numbered from 0 at the least significant bit (spec/00_scope.md R3). Everything the spec treats as bits is a
`BitVec`; the parameters it compares durations with are plain numbers (`Sys2Proof/Config.lean`).
-/

namespace Sys2Proof

/-- The command word of a request: 16 bits (spec/30_encoding.md R34). -/
abbrev Cmd := BitVec 16

/-- The IDX field of a command word: 6 bits (spec/30_encoding.md R34, R36). -/
abbrev Idx := BitVec 6

/-- `rdata` of a response: 32 bits (spec/30_encoding.md R35). It also carries `wdata`, which is at most that wide
(spec/00_scope.md R1: `DUR_WIDTH` ≤ 32). -/
abbrev Word := BitVec 32

/-- A duration in microseconds (spec/00_scope.md R6). The type has room for the widest duration R1 allows; a narrower
`DUR_WIDTH` keeps the bits above it 0 (`Config.clip`). DESIGN CHOICE, safe: log entry 4. -/
abbrev Duration := BitVec 32

end Sys2Proof
end

