-- ==== Sys2Proof/Syntax.lean ====
section
/-!
DEFINITION. Requests, the 16 commands and their mnemonics (spec/30_encoding.md R34, R38).

The block's "instructions" are its commands (spec/00_scope.md section 1). A command's operands are the IDX field and, for
the three SETs, the data word (R36, R37).
-/

namespace Sys2Proof

/-- A request: a command word and a data word (spec/30_encoding.md R34). -/
structure Request where
  cmd   : Cmd
  wdata : Word
  deriving DecidableEq, Repr

/-- The rows of the opcode map (spec/30_encoding.md R38), by mnemonic. -/
inductive Mnemonic where
  | sets | gets | seth | geth | setl | getl | clear | decode
  | valid | missing | getbit | humid | temp | rawtemp | parity | status
  deriving DecidableEq, Repr

/-- Every row, in the table's order. -/
def Mnemonic.all : List Mnemonic :=
  [.sets, .gets, .seth, .geth, .setl, .getl, .clear, .decode,
   .valid, .missing, .getbit, .humid, .temp, .rawtemp, .parity, .status]

/-- The commands, one constructor per row of spec/opcode_table.json. A command that ignores `wdata` has no such operand
(spec/30_encoding.md R37). -/
inductive Instr where
  /-- SETS i, v: write `start[i]` (R45). -/
  | sets (idx : Idx) (wdata : Word)
  /-- GETS i: read `start[i]` (R46). -/
  | gets (idx : Idx)
  /-- SETH p, v: write `high[p]` (R47). -/
  | seth (idx : Idx) (wdata : Word)
  /-- GETH p: read `high[p]` (R48). -/
  | geth (idx : Idx)
  /-- SETL p, v: write `low[p]` (R49). -/
  | setl (idx : Idx) (wdata : Word)
  /-- GETL p: read `low[p]` (R50). -/
  | getl (idx : Idx)
  /-- CLEAR: start a fresh buffer (R44). -/
  | clear
  /-- DECODE: classify, assemble, validate and latch the frame (R63). -/
  | decode
  /-- VALID: read the verdict (R66). -/
  | valid
  /-- MISSING: read the missing-bit count (R67). -/
  | missing
  /-- GETBIT p: read one decoded bit (R68). -/
  | getbit (idx : Idx)
  /-- HUMID: read the humidity in tenths (R69). -/
  | humid
  /-- TEMP: read the temperature in signed tenths (R70). -/
  | temp
  /-- RAWTEMP: read the raw temperature field (R71). -/
  | rawtemp
  /-- PARITY: read the received checksum byte (R72). -/
  | parity
  /-- STATUS: read the status word (R73). -/
  | status
  deriving DecidableEq, Repr

/-- The row a command belongs to. -/
def Instr.mnemonic : Instr → Mnemonic
  | .sets _ _ => .sets
  | .gets _   => .gets
  | .seth _ _ => .seth
  | .geth _   => .geth
  | .setl _ _ => .setl
  | .getl _   => .getl
  | .clear    => .clear
  | .decode   => .decode
  | .valid    => .valid
  | .missing  => .missing
  | .getbit _ => .getbit
  | .humid    => .humid
  | .temp     => .temp
  | .rawtemp  => .rawtemp
  | .parity   => .parity
  | .status   => .status

/-- The IDX operand of a command; 0 where the row has none (spec/30_encoding.md R36). -/
def Instr.idx : Instr → Idx
  | .sets i _ => i
  | .gets i   => i
  | .seth i _ => i
  | .geth i   => i
  | .setl i _ => i
  | .getl i   => i
  | .clear    => 0#6
  | .decode   => 0#6
  | .valid    => 0#6
  | .missing  => 0#6
  | .getbit i => i
  | .humid    => 0#6
  | .temp     => 0#6
  | .rawtemp  => 0#6
  | .parity   => 0#6
  | .status   => 0#6

/-- The data word a request for this command carries; 0 where the command ignores it, as the assembler sets it
(spec/30_encoding.md R37, R43). -/
def Instr.wdata : Instr → Word
  | .sets _ v => v
  | .gets _   => 0#32
  | .seth _ v => v
  | .geth _   => 0#32
  | .setl _ v => v
  | .getl _   => 0#32
  | .clear    => 0#32
  | .decode   => 0#32
  | .valid    => 0#32
  | .missing  => 0#32
  | .getbit _ => 0#32
  | .humid    => 0#32
  | .temp     => 0#32
  | .rawtemp  => 0#32
  | .parity   => 0#32
  | .status   => 0#32

end Sys2Proof
end

