-- ==== Sys2Proof/Decode.lean ====
section
/-!
DEFINITION. The command decoder and the encoder (spec/30_encoding.md R34, R38–R41).

Decoding is total on every request. It takes OP, looks up the row (no two rows share an OP), and rejects by name: an
unassigned OP, a non-zero RSV, a non-zero IDX on a row without an index (R39). What the block does with a rejected word is
in `Machine/Ops.lean`.
-/

namespace Sys2Proof

/-- OP, bits [15:11] of a command word (R34). -/
def opField (c : Cmd) : BitVec 5 := c.extractLsb' 11 5

/-- RSV, bits [10:6] (R34). -/
def rsvField (c : Cmd) : BitVec 5 := c.extractLsb' 6 5

/-- IDX, bits [5:0] (R34). -/
def idxField (c : Cmd) : Idx := c.extractLsb' 0 6

/-- The OP column of the opcode map (R38). -/
def Mnemonic.op : Mnemonic → BitVec 5
  | .sets    => 0x01#5
  | .gets    => 0x02#5
  | .seth    => 0x03#5
  | .geth    => 0x04#5
  | .setl    => 0x05#5
  | .getl    => 0x06#5
  | .clear   => 0x07#5
  | .decode  => 0x08#5
  | .valid   => 0x09#5
  | .missing => 0x0A#5
  | .getbit  => 0x0B#5
  | .humid   => 0x0C#5
  | .temp    => 0x0D#5
  | .rawtemp => 0x0E#5
  | .parity  => 0x0F#5
  | .status  => 0x10#5

/-- The row uses IDX as an index; on the others IDX must be 0 (R36, R38). -/
def Mnemonic.indexed : Mnemonic → Bool
  | .sets    => true
  | .gets    => true
  | .seth    => true
  | .geth    => true
  | .setl    => true
  | .getl    => true
  | .clear   => false
  | .decode  => false
  | .valid   => false
  | .missing => false
  | .getbit  => true
  | .humid   => false
  | .temp    => false
  | .rawtemp => false
  | .parity  => false
  | .status  => false

/-- `match` of a row: `OP << 11` (R38). -/
def Mnemonic.matchWord (m : Mnemonic) : Cmd := m.op ++ 0#11

/-- `mask` of a row: 0xFFC0 on indexed rows, 0xFFFF on the others (R38). -/
def Mnemonic.mask (m : Mnemonic) : Cmd := if m.indexed then 0xFFC0#16 else 0xFFFF#16

/-- `OpRow(op)`: the row with this OP, or none (R38, R76). -/
def rowOf (op : BitVec 5) : Option Mnemonic := Mnemonic.all.find? (fun m => m.op == op)

/-- The command of a row with its operands (R36, R37). -/
def Mnemonic.instr (m : Mnemonic) (idx : Idx) (wdata : Word) : Instr :=
  match m with
  | .sets    => .sets idx wdata
  | .gets    => .gets idx
  | .seth    => .seth idx wdata
  | .geth    => .geth idx
  | .setl    => .setl idx wdata
  | .getl    => .getl idx
  | .clear   => .clear
  | .decode  => .decode
  | .valid   => .valid
  | .missing => .missing
  | .getbit  => .getbit idx
  | .humid   => .humid
  | .temp    => .temp
  | .rawtemp => .rawtemp
  | .parity  => .parity
  | .status  => .status

/-- Why a command word is illegal (R39). -/
inductive DecodeError where
  /-- OP is 0x00 or one of 0x11..0x1F. -/
  | unassignedOp (op : BitVec 5)
  /-- RSV ≠ 0. -/
  | reservedNonzero (rsv : BitVec 5)
  /-- IDX ≠ 0 on a row whose IDX must be 0. -/
  | indexNonzero (idx : Idx)
  deriving DecidableEq, Repr

/-- The command of a request, or why its word is illegal (R38, R39). -/
def decodeRequest (r : Request) : Except DecodeError Instr :=
  match rowOf (opField r.cmd) with
  | none   => .error (.unassignedOp (opField r.cmd))
  | some m =>
    if rsvField r.cmd ≠ 0#5 then .error (.reservedNonzero (rsvField r.cmd))
    else if m.indexed = false ∧ idxField r.cmd ≠ 0#6 then .error (.indexNonzero (idxField r.cmd))
    else .ok (m.instr (idxField r.cmd) r.wdata)

/-- The request that stands for a command: OP, five zero bits, IDX (R34, R38); `wdata` is 0 where the command ignores it
(R43; log entry 12). -/
def encode (i : Instr) : Request :=
  ⟨i.mnemonic.op ++ 0#5 ++ i.idx, i.wdata⟩

/-- The request whose bits are `w`, numbered as spec/opcode_table.json numbers them: the command word is bits 15..0 and the
data word the 32 bits above it. Bits at `nbits` and above are 0. -/
def requestOfTableWord (nbits w : Nat) : Request :=
  ⟨BitVec.ofNat 16 (w % 2 ^ nbits), BitVec.ofNat 32 (w % 2 ^ nbits / 2 ^ 16)⟩

/-- What the decoder reads from an instruction whose bits are `w`. -/
def decodeTableWord (nbits w : Nat) : Option Instr :=
  match decodeRequest (requestOfTableWord nbits w) with
  | .ok i    => some i
  | .error _ => none

end Sys2Proof
end

