-- ==== Sys2Proof/Machine/State.lean ====
section
/-!
DEFINITION. The state as plain data, and the state after reset.

`Block` is the record of spec/10_state.md R7 with exactly its fields. `State` puts beside it the two ends of the host's
interface: the requests the host has still to issue and the response to the last one. These are the model's own (log
entry 1): R7's record is the whole of the block.

There is no memory and no program counter to hold (spec/20_memory.md R22, spec/10_state.md R18; log entry 8).
-/

namespace Sys2Proof.Machine

/-- `PHASE` (spec/10_state.md R15): CAPTURE while the buffer is being filled, DECODED after a DECODE. -/
inductive Phase where
  | capture
  | decoded
  deriving DecidableEq, Repr

/-- The block's whole state (spec/10_state.md R7). The rule that names a field stands beside it. -/
structure Block where
  /-- `start[0..2]`, handshake durations (R9). -/
  start      : Vector Duration 3
  /-- `high[0..39]`, reference-phase durations (R10). -/
  high       : Vector Duration 40
  /-- `low[0..39]`, data-phase durations (R11). -/
  low        : Vector Duration 40
  /-- `RES_BIT[0..39]`, by frame position (R14). -/
  resBit     : Vector Bool 40
  /-- `RES_MISSING`, legal values 0..40 (R14). -/
  resMissing : BitVec 6
  /-- `RES_HUM`, tenths of a percent (R14). -/
  resHum     : BitVec 16
  /-- `RES_TEMP`, sign-magnitude tenths of a degree (R14). -/
  resTemp    : BitVec 16
  /-- `RES_PARITY`, the received checksum byte (R14). -/
  resParity  : BitVec 8
  /-- `RES_VALID` (R14). -/
  resValid   : Bool
  /-- `PHASE` (R15). -/
  phase      : Phase
  /-- `FAULTED` (R16). -/
  faulted    : Bool
  /-- `CAUSE`, the code of the first fault since reset (R16, R75). -/
  cause      : BitVec 4
  deriving DecidableEq, Repr

/-- A response: `ok` and `rdata` (spec/30_encoding.md R35). -/
structure Response where
  ok    : Bool
  rdata : Word
  deriving DecidableEq, Repr

/-- What the host can do to the block: issue a request (spec/30_encoding.md R34) or reset it
(spec/70_reset_and_hazards.md R86). -/
inductive HostEvent where
  | request (r : Request)
  | reset
  deriving DecidableEq, Repr

/-- The machine: the block, the host's events still to come (first to come first, one at a time, R29, R90), and the last
response (`none` before the first one and after a reset event). -/
structure State where
  block    : Block
  script   : List HostEvent
  response : Option Response
  deriving DecidableEq, Repr

/-- Why the machine stops with a fault: never. Each of the spec's faults is a state the block goes on in, with FAULTED set
(spec/60_exceptions.md R77, R78), so it is a next state here and this type has no constructor (log entry 7). Safe. -/
inductive Fault where
  deriving DecidableEq, Repr

/-- Why the machine refuses. -/
inductive Refusal where
  /-- Raised by `exec` alone, for an instruction without a meaning yet; no arm raises it now. Safe: nothing is claimed. -/
  | notModelled (mnemonic : String)
  /-- Raised by `stepWith` alone, for a configuration that breaks a constraint of spec/00_scope.md R1 ("a configuration
  that breaks one is refused"). Safe: the spec refuses it too. -/
  | illegalConfiguration
  deriving DecidableEq, Repr

/-- The block after reset, every field as spec/70_reset_and_hazards.md R86 and spec/10_state.md R9–R16 say. -/
def Block.reset : Block where
  start      := Vector.replicate 3 0#32
  high       := Vector.replicate 40 0#32
  low        := Vector.replicate 40 0#32
  resBit     := Vector.replicate 40 false
  resMissing := 0#6
  resHum     := 0#16
  resTemp    := 0#16
  resParity  := 0#8
  resValid   := false
  phase      := .capture
  faulted    := false
  cause      := 0#4

/-- The machine after reset: the block at its reset values, waiting for the first request (R87). That no request is pending
and no response has been given is the model's: DESIGN CHOICE, safe (log entry 1). -/
def State.reset : State where
  block    := Block.reset
  script   := []
  response := none

end Sys2Proof.Machine
end

