-- ==== Sys2Proof/Config.lean ====
section
/-!
DEFINITION. The implementation parameters of spec/00_scope.md R1 and the fixed limits of R2.

The configuration is no state: it is a parameter of the step, fixed for the block's whole life (spec/10_state.md R7).
Every operation that depends on it takes it as an argument; `Config.hw` is the value this hardware takes. The spec leaves
no value free, so this file has no uninterpreted constant.
-/

namespace Sys2Proof

/-- The parameters of spec/00_scope.md R1. `refWindow` is `none` for `NONE`, else the pair `(REF_MIN, REF_MAX)`. -/
structure Config where
  durWidth  : Nat
  shortMin  : Nat
  shortMax  : Nat
  longMin   : Nat
  longMax   : Nat
  refWindow : Option (Nat × Nat)
  deriving DecidableEq, Repr

/-- The spec's values, "the value this hardware takes" (spec/00_scope.md R1). UNVERIFIED, unsafe: the thresholds are the
source's nominal ones (spec/92_eei_decisions.md D7, D8; log entry 5). -/
def Config.hw : Config where
  durWidth  := 32
  shortMin  := 20
  shortMax  := 30
  longMin   := 65
  longMax   := 80
  refWindow := none

/-- Upper end of the humidity range, 100.0 % in tenths (spec/00_scope.md R2). -/
def Config.humidityMax : Nat := 1000

/-- Upper end of the temperature range, 100.0 °C in tenths (spec/00_scope.md R2). -/
def Config.temperatureMax : Nat := 1000

/-- Magnitude of the lower end of the temperature range, −50.0 °C in tenths (spec/00_scope.md R2). -/
def Config.temperatureMinMagnitude : Nat := 500

end Sys2Proof
end

