-- ==== Sys2Proof/WellFormed.lean ====
section
/-!
DEFINITION. Which configurations the block may have and which commands can be written for one.

A configuration that breaks a constraint of spec/00_scope.md R1 is refused. A command is well formed for a configuration
when its data word fits in `DUR_WIDTH` bits (R34, R37, R43); the index field cannot be ill formed, since every IDX from 0
to 63 is a legal encoding (R36).
-/

namespace Sys2Proof

/-- 1 ≤ `DUR_WIDTH` ≤ 32 (R1). -/
def Config.widthOk (cfg : Config) : Bool := 1 ≤ cfg.durWidth && cfg.durWidth ≤ 32

/-- `SHORT_MIN` ≤ `SHORT_MAX` (R1). -/
def Config.shortOk (cfg : Config) : Bool := cfg.shortMin ≤ cfg.shortMax

/-- `SHORT_MAX` < `LONG_MIN`: the windows do not overlap (R1). -/
def Config.apartOk (cfg : Config) : Bool := cfg.shortMax < cfg.longMin

/-- `LONG_MIN` ≤ `LONG_MAX` < 2^`DUR_WIDTH` (R1). -/
def Config.longOk (cfg : Config) : Bool := cfg.longMin ≤ cfg.longMax && cfg.longMax < 2 ^ cfg.durWidth

/-- `REF_WINDOW`, if a pair, has `REF_MIN` ≤ 53 and `REF_MAX` ≥ 68 (R1). -/
def Config.refOk (cfg : Config) : Bool :=
  match cfg.refWindow with
  | none          => true
  | some (lo, hi) => lo ≤ 53 && 68 ≤ hi

/-- Every constraint of R1's table holds. -/
def Config.wf (cfg : Config) : Bool :=
  cfg.widthOk && cfg.shortOk && cfg.apartOk && cfg.longOk && cfg.refOk

/-- The windows contain the durations of the source's worked example (R1, the sentence after the table; log entry 6: a
configuration without this is not refused, it fails that example). -/
def Config.admitsWorkedExample (cfg : Config) : Bool :=
  cfg.shortMin ≤ 25 && 26 ≤ cfg.shortMax && cfg.longMin ≤ 72 && 74 ≤ cfg.longMax

/-- A data word of `DUR_WIDTH` bits (R34, R43). -/
def Config.fits (cfg : Config) (v : Word) : Bool := v.toNat < 2 ^ cfg.durWidth

/-- A command that can be written for this configuration: its data word fits. -/
def Instr.wellFormed (cfg : Config) (i : Instr) : Bool := cfg.fits i.wdata

end Sys2Proof
end

