-- ==== Sys2Proof/Machine/Operands.lean ====
section
/-!
DEFINITION. The operand forms: the data word as a duration, entries of the index spaces, results as `rdata`.

The four index spaces START, HIGH, LOW and BIT (spec/20_memory.md R20) are read and written here and nowhere else. The
index is IDX read as a number (R21). Admission (`Machine/Ops.lean`) has excluded an index outside the space before any of
these runs, so what they answer there is read by nothing: DESIGN CHOICE, safe (log entry 9).
-/

namespace Sys2Proof

/-- `wdata[DUR_WIDTH-1:0]` (spec/30_encoding.md R37). With the spec's width, 32, this is `wdata` itself. -/
def Config.clip (cfg : Config) (wdata : Word) : Duration := BitVec.ofNat 32 (wdata.toNat % 2 ^ cfg.durWidth)

namespace Machine

/-- `start[i]` (spec/10_state.md R9). -/
def readStart (b : Block) (i : Nat) : Duration := b.start[i]?.getD 0#32

/-- `high[p]` (spec/10_state.md R10). -/
def readHigh (b : Block) (p : Nat) : Duration := b.high[p]?.getD 0#32

/-- `low[p]` (spec/10_state.md R11). -/
def readLow (b : Block) (p : Nat) : Duration := b.low[p]?.getD 0#32

/-- `RES_BIT[p]` (spec/10_state.md R14). -/
def readBit (b : Block) (p : Nat) : Bool := b.resBit[p]?.getD false

/-- `start[i] <- v`: the entry is replaced, no other changes (spec/10_state.md R8). -/
def writeStart (b : Block) (i : Nat) (v : Duration) : Block := { b with start := b.start.setIfInBounds i v }

/-- `high[p] <- v` (spec/10_state.md R8). -/
def writeHigh (b : Block) (p : Nat) (v : Duration) : Block := { b with high := b.high.setIfInBounds p v }

/-- `low[p] <- v` (spec/10_state.md R8). -/
def writeLow (b : Block) (p : Nat) (v : Duration) : Block := { b with low := b.low.setIfInBounds p v }

/-- `zext_32(v)` (spec/00_scope.md R5). -/
def zext32 {n : Nat} (v : BitVec n) : Word := v.setWidth 32

/-- One bit as a number (spec/00_scope.md R3). -/
def bitOf (x : Bool) : BitVec 1 := BitVec.ofBool x

/-- The bit of `PHASE`: CAPTURE = 0, DECODED = 1 (spec/10_state.md R15). -/
def Phase.bit : Phase → BitVec 1
  | .capture => 0#1
  | .decoded => 1#1

/-- The temperature as a signed number of tenths in 32-bit two's complement, from the sign-magnitude field: the magnitude,
negated modulo 2^32 when the sign bit is set (spec/42_results.md R70). -/
def signedTenths (t : BitVec 16) : Word :=
  let tMag : Word := zext32 (t.extractLsb' 0 15)
  if t.getLsbD 15 then -tMag else tMag

/-- The status word `{CAUSE[3:0], 0b00, FAULTED, PHASE}`, zero-extended (spec/10_state.md R17, spec/42_results.md R73). -/
def statusWord (b : Block) : Word :=
  zext32 (b.cause ++ 0#2 ++ bitOf b.faulted ++ b.phase.bit)

end Machine

end Sys2Proof
end

