-- ==== Sys2Proof/Machine/Ops.lean ====
section
/-!
DEFINITION. Admission, fault entry, answering a request, and the host's events (spec/60_exceptions.md R75–R79,
spec/30_encoding.md R35, R42, spec/70_reset_and_hazards.md R86).

Every command's meaning is `serve` applied to the command's own effect on the block; every fault is taken by
`faultEntry`. There is no return from a fault but the reset event (R79).
-/

namespace Sys2Proof

/-- The legal index range of a row: IDX below this number; none on a row without an index (spec/30_encoding.md R38,
spec/60_exceptions.md R76). -/
def Mnemonic.limit : Mnemonic → Option Nat
  | .sets    => some 3
  | .gets    => some 3
  | .seth    => some 40
  | .geth    => some 40
  | .setl    => some 40
  | .getl    => some 40
  | .clear   => none
  | .decode  => none
  | .valid   => none
  | .missing => none
  | .getbit  => some 40
  | .humid   => none
  | .temp    => none
  | .rawtemp => none
  | .parity  => none
  | .status  => none

/-- The PHASE column of the opcode map; none for "any" (spec/30_encoding.md R38). -/
def Mnemonic.needs : Mnemonic → Option Machine.Phase
  | .sets    => some .capture
  | .gets    => none
  | .seth    => some .capture
  | .geth    => none
  | .setl    => some .capture
  | .getl    => none
  | .clear   => none
  | .decode  => none
  | .valid   => some .decoded
  | .missing => some .decoded
  | .getbit  => some .decoded
  | .humid   => some .decoded
  | .temp    => some .decoded
  | .rawtemp => some .decoded
  | .parity  => some .decoded
  | .status  => none

namespace Machine

/-- The block's faults (R75). -/
inductive Cause where
  | outOfRange
  | illegalCommand
  | resultBeforeDecode
  | writeAfterDecode
  deriving DecidableEq, Repr

/-- The code `CAUSE` records (R75). -/
def Cause.code : Cause → BitVec 4
  | .outOfRange         => 1#4
  | .illegalCommand     => 2#4
  | .resultBeforeDecode => 3#4
  | .writeAfterDecode   => 4#4

/-- What admission decides (R76). -/
inductive Verdict where
  | admitted
  | reject
  | fault (c : Cause)
  deriving DecidableEq, Repr

/-- `legal`: a row, RSV = 0, and IDX = 0 where the row has no index (R76). -/
def legalWord (row : Option Mnemonic) (rsv : BitVec 5) (idx : Idx) : Bool :=
  match row with
  | none   => false
  | some m => rsv == 0#5 && (m.indexed || idx == 0#6)

/-- `row.indexed and idx >= row.limit` (R76). -/
def indexOut (row : Option Mnemonic) (idx : Idx) : Bool :=
  match row.bind Mnemonic.limit with
  | none   => false
  | some n => n ≤ idx.toNat

/-- `Admit(s, op, rsv, idx)` with `row` = `OpRow(op)`: the order of the tests is the priority (R76). -/
def admission (b : Block) (row : Option Mnemonic) (rsv : BitVec 5) (idx : Idx) : Verdict :=
  if b.faulted then
    if legalWord row rsv idx && row == some .status then .admitted else .reject
  else if legalWord row rsv idx = false then .fault .illegalCommand
  else if indexOut row idx then .fault .outOfRange
  else if row.bind Mnemonic.needs = some .capture ∧ b.phase = .decoded then .fault .writeAfterDecode
  else if row.bind Mnemonic.needs = some .decoded ∧ b.phase = .capture then .fault .resultBeforeDecode
  else .admitted

/-- `FaultEntry(s, cause)`: FAULTED and CAUSE are written, nothing else (R77). -/
def faultEntry (b : Block) (c : Cause) : Block := { b with faulted := true, cause := c.code }

/-- The machine after a rejected request: the block unchanged, the response (0, 0) (R42, R78). -/
def State.reject (s : State) : State := { s with response := some ⟨false, 0#32⟩ }

/-- The machine after a request that faults: fault entry, the response (0, 0) (R42, R77). -/
def State.takeFault (s : State) (c : Cause) : State :=
  { s with block := faultEntry s.block c, response := some ⟨false, 0#32⟩ }

/-- The machine after an admitted request: the command's next block and `rdata`, with `ok` = 1 (R35, R42). -/
def State.complete (s : State) (effect : Block → Block × Word) : State :=
  { s with block := (effect s.block).1, response := some ⟨true, (effect s.block).2⟩ }

/-- The machine after a request, by what admission decided (R42). -/
def answer (v : Verdict) (effect : Block → Block × Word) (s : State) : State :=
  match v with
  | .reject   => s.reject
  | .fault c  => s.takeFault c
  | .admitted => s.complete effect

/-- Serve a legal command: admission it, then perform its effect, take its fault, or reject it (R42, R76). -/
def serve (m : Mnemonic) (idx : Idx) (effect : Block → Block × Word) (s : State) :
    Host.Outcome State Fault Refusal :=
  .next (answer (admission s.block (some m) 0#5 idx) effect s)

/-- Serve an illegal word: rejected when the block is already faulted, else ILLEGAL_COMMAND (R39, R76). -/
def serveIllegal (s : State) : Host.Outcome State Fault Refusal :=
  .next (if s.block.faulted then s.reject else s.takeFault .illegalCommand)

/-- The reset event: every field of the block at its reset value, in every state (R86). It has no response
(spec/95_test_vectors.md F8). The host's later events stay: the host is not reset (log entry 3). -/
def State.resetBlock (s : State) : State := { s with block := Block.reset, response := none }

/-- What the host does next, and the machine with that event taken from the host's script (R42, R87, R90). -/
inductive NextEvent where
  /-- No request is pending: the block waits (R87). -/
  | idle
  /-- The reset event. -/
  | reset (s : State)
  /-- A request. -/
  | request (r : Request) (s : State)
  deriving DecidableEq, Repr

/-- Take the host's next event. -/
def nextEvent (s : State) : NextEvent :=
  match s.script with
  | []                 => .idle
  | .reset :: rest     => .reset { s with script := rest }
  | .request r :: rest => .request r { s with script := rest }

/-- The machine with this request to come next. -/
def State.withRequest (s : State) (r : Request) : State := { s with script := .request r :: s.script }

end Machine

end Sys2Proof
end

