-- ==== Sys2Proof/Machine/Buffer.lean ====
section
/-!
DEFINITION. The buffer access commands CLEAR, SETS, GETS, SETH, GETH, SETL, GETL (spec/40_buffer_access.md R44–R50).

Each command has its effect on the block (with the `rdata` it answers), and its meaning, which serves that effect under
the hardware's configuration.
-/

namespace Sys2Proof.Machine

/-- CLEAR: every duration and result is 0 and PHASE is CAPTURE; FAULTED and CAUSE are not touched (R44). -/
def clearEffect (b : Block) : Block × Word :=
  ({ b with
      start      := Vector.replicate 3 0#32
      high       := Vector.replicate 40 0#32
      low        := Vector.replicate 40 0#32
      resBit     := Vector.replicate 40 false
      resMissing := 0#6
      resHum     := 0#16
      resTemp    := 0#16
      resParity  := 0#8
      resValid   := false
      phase      := .capture }, 0#32)

/-- SETS: `start[i] <- wdata[DUR_WIDTH-1:0]` (R45). -/
def setsEffect (cfg : Config) (idx : Idx) (wdata : Word) (b : Block) : Block × Word :=
  (writeStart b idx.toNat (cfg.clip wdata), 0#32)

/-- GETS: answer `zext_32(start[i])` (R46). -/
def getsEffect (idx : Idx) (b : Block) : Block × Word := (b, zext32 (readStart b idx.toNat))

/-- SETH: `high[p] <- wdata[DUR_WIDTH-1:0]` (R47). -/
def sethEffect (cfg : Config) (idx : Idx) (wdata : Word) (b : Block) : Block × Word :=
  (writeHigh b idx.toNat (cfg.clip wdata), 0#32)

/-- GETH: answer `zext_32(high[p])` (R48). -/
def gethEffect (idx : Idx) (b : Block) : Block × Word := (b, zext32 (readHigh b idx.toNat))

/-- SETL: `low[p] <- wdata[DUR_WIDTH-1:0]` (R49). -/
def setlEffect (cfg : Config) (idx : Idx) (wdata : Word) (b : Block) : Block × Word :=
  (writeLow b idx.toNat (cfg.clip wdata), 0#32)

/-- GETL: answer `zext_32(low[p])` (R50). -/
def getlEffect (idx : Idx) (b : Block) : Block × Word := (b, zext32 (readLow b idx.toNat))

/-- The meaning of CLEAR (R44). -/
def execClear (s : State) : Host.Outcome State Fault Refusal := serve .clear 0#6 clearEffect s

/-- The meaning of SETS (R45). -/
def execSets (idx : Idx) (wdata : Word) (s : State) : Host.Outcome State Fault Refusal :=
  serve .sets idx (setsEffect Config.hw idx wdata) s

/-- The meaning of GETS (R46). -/
def execGets (idx : Idx) (s : State) : Host.Outcome State Fault Refusal := serve .gets idx (getsEffect idx) s

/-- The meaning of SETH (R47). -/
def execSeth (idx : Idx) (wdata : Word) (s : State) : Host.Outcome State Fault Refusal :=
  serve .seth idx (sethEffect Config.hw idx wdata) s

/-- The meaning of GETH (R48). -/
def execGeth (idx : Idx) (s : State) : Host.Outcome State Fault Refusal := serve .geth idx (gethEffect idx) s

/-- The meaning of SETL (R49). -/
def execSetl (idx : Idx) (wdata : Word) (s : State) : Host.Outcome State Fault Refusal :=
  serve .setl idx (setlEffect Config.hw idx wdata) s

/-- The meaning of GETL (R50). -/
def execGetl (idx : Idx) (s : State) : Host.Outcome State Fault Refusal := serve .getl idx (getlEffect idx) s

end Sys2Proof.Machine
end

