-- ==== Sys2Proof/Machine/Classifier.lean ====
section
/-!
DEFINITION. The pulse-duration classifier and the bit assembler (spec/41_decode.md R51–R57, R65).

The classified value is `low[p]`, the data phase; `high[p]` is read for the optional reference check alone (R51;
spec/90_conflicts.md C1). All functions are total and read nothing but the durations and the configuration.
-/

namespace Sys2Proof.Machine

/-- What one duration means (R52). -/
inductive BitClass where
  | zero
  | one
  | missing
  deriving DecidableEq, Repr

/-- `MIN <= d <= MAX`, both ends included (R52, spec/92_eei_decisions.md D7). -/
def inWindow (lo hi : Nat) (d : Duration) : Bool := lo ≤ d.toNat && d.toNat ≤ hi

/-- The reference duration passes the gross check; with `REF_WINDOW` = `NONE` it always does (R52). -/
def referenceOk (cfg : Config) (r : Duration) : Bool :=
  match cfg.refWindow with
  | none          => true
  | some (lo, hi) => inWindow lo hi r

/-- `Classify(d, r)`, its tests in the spec's order (R52). -/
def classify (cfg : Config) (d r : Duration) : BitClass :=
  if referenceOk cfg r = false then .missing
  else if inWindow cfg.shortMin cfg.shortMax d then .zero
  else if inWindow cfg.longMin cfg.longMax d then .one
  else .missing

/-- `c[p] = Classify(low[p], high[p])` for every frame position (R51, R63). -/
def classes (cfg : Config) (b : Block) : Vector BitClass 40 :=
  Vector.ofFn fun p => classify cfg b.low[p] b.high[p]

/-- The decoded bits: 1 for ONE, 0 for ZERO and for MISSING (R53). -/
def decodedBits (cfg : Config) (b : Block) : Vector Bool 40 :=
  Vector.ofFn fun p => (classes cfg b)[p] == .one

/-- The number of positions that classify as MISSING, 0..40 (R54). -/
def missingCount (cfg : Config) (b : Block) : Nat := (classes cfg b).toList.countP (· == .missing)

/-- The number whose binary digits are these bits, most significant first (R55–R57). -/
def msbFirst (bits : List Bool) : Nat := bits.foldl (fun n x => 2 * n + x.toNat) 0

/-- The field of `width` bits that starts at frame position `first`, most significant bit first (R55–R57, R65). -/
def fieldAt (bits : Vector Bool 40) (first width : Nat) : BitVec width :=
  BitVec.ofNat width (msbFirst ((bits.toList.drop first).take width))

/-- The humidity field, frame positions 0..15 (R55). -/
def humidityField (bits : Vector Bool 40) : BitVec 16 := fieldAt bits 0 16

/-- The temperature field, frame positions 16..31 (R56). -/
def temperatureField (bits : Vector Bool 40) : BitVec 16 := fieldAt bits 16 16

/-- The parity field, frame positions 32..39 (R57). -/
def parityField (bits : Vector Bool 40) : BitVec 8 := fieldAt bits 32 8

end Sys2Proof.Machine
end

