-- ==== Sys2Proof/Machine/Flags.lean ====
section
/-!
DEFINITION. The frame validator: the verdict `RES_VALID` and the tests it is made of (spec/41_decode.md R58–R61).

The result registers play the role of the flags (spec/10_state.md section 3); this verdict is the only one that is
computed from others. Every test is made on the assembled fields, also when bits are missing (R61).
-/

namespace Sys2Proof.Machine

/-- `sum`: the exact sum of the four data bytes, 0..1020; the temperature's high byte includes the sign bit (R58). -/
def byteSum (hum temp : BitVec 16) : Nat :=
  (hum.extractLsb' 8 8).toNat + (hum.extractLsb' 0 8).toNat
    + (temp.extractLsb' 8 8).toNat + (temp.extractLsb' 0 8).toNat

/-- `checksumOK`: the parity byte equals the sum modulo 256, not complemented (R58). -/
def checksumOK (hum temp : BitVec 16) (parity : BitVec 8) : Bool := parity.toNat == byteSum hum temp % 256

/-- `humOK` (R59). -/
def humOK (hum : BitVec 16) : Bool := hum.toNat ≤ Config.humidityMax

/-- `tSign`: bit 15 of the temperature field (R56). -/
def tSign (temp : BitVec 16) : Bool := temp.getLsbD 15

/-- `tMag`: bits 14..0 of the temperature field (R56). -/
def tMag (temp : BitVec 16) : Nat := (temp.extractLsb' 0 15).toNat

/-- `tempOK`, on the sign-magnitude value; negative zero is in range (R60). -/
def tempOK (temp : BitVec 16) : Bool :=
  (tSign temp == false && tMag temp ≤ Config.temperatureMax)
    || (tSign temp == true && tMag temp ≤ Config.temperatureMinMagnitude)

/-- The verdict: no missing bit, and checksum and both ranges hold (R61). -/
def verdict (missing : Nat) (hum temp : BitVec 16) (parity : BitVec 8) : Bool :=
  missing == 0 && checksumOK hum temp parity && humOK hum && tempOK temp

end Sys2Proof.Machine
end

