-- ==== Sys2Proof/Machine/Frame.lean ====
section
/-!
DEFINITION. The DECODE command (spec/41_decode.md R63).
-/

namespace Sys2Proof.Machine

/-- The block with the DecodedFrame of its duration registers latched and PHASE = DECODED, in one step; the fields and the
verdict are computed from the new bits (R63). `start` is not read (R62). -/
def latchFrame (cfg : Config) (b : Block) : Block :=
  { b with
    resBit     := decodedBits cfg b
    resMissing := BitVec.ofNat 6 (missingCount cfg b)
    resHum     := humidityField (decodedBits cfg b)
    resTemp    := temperatureField (decodedBits cfg b)
    resParity  := parityField (decodedBits cfg b)
    resValid   := verdict (missingCount cfg b) (humidityField (decodedBits cfg b))
                    (temperatureField (decodedBits cfg b)) (parityField (decodedBits cfg b))
    phase      := .decoded }

/-- DECODE: latch the frame and answer 0 (R63). A corrupted frame is a result, never a fault (spec/60_exceptions.md R80). -/
def decodeEffect (cfg : Config) (b : Block) : Block × Word := (latchFrame cfg b, 0#32)

/-- The meaning of DECODE (R63). -/
def execDecode (s : State) : Host.Outcome State Fault Refusal := serve .decode 0#6 (decodeEffect Config.hw) s

end Sys2Proof.Machine
end

