-- ==== Sys2Proof/Machine/Results.lean ====
section
/-!
DEFINITION. The result and status reads VALID, MISSING, GETBIT, HUMID, TEMP, RAWTEMP, PARITY, STATUS, and the real-valued
observations (spec/42_results.md R66–R74). None of the commands changes the block when admitted.
-/

namespace Sys2Proof.Machine

/-- VALID: answer `zext_32(RES_VALID)` (R66). -/
def validEffect (b : Block) : Block × Word := (b, zext32 (bitOf b.resValid))

/-- MISSING: answer `zext_32(RES_MISSING)` (R67). -/
def missingEffect (b : Block) : Block × Word := (b, zext32 b.resMissing)

/-- GETBIT: answer `zext_32(RES_BIT[p])` (R68). -/
def getbitEffect (idx : Idx) (b : Block) : Block × Word := (b, zext32 (bitOf (readBit b idx.toNat)))

/-- HUMID: answer `zext_32(RES_HUM)`, out-of-range values unchanged (R69). -/
def humidEffect (b : Block) : Block × Word := (b, zext32 b.resHum)

/-- TEMP: answer the signed tenths of `RES_TEMP` (R70). -/
def tempEffect (b : Block) : Block × Word := (b, signedTenths b.resTemp)

/-- RAWTEMP: answer `zext_32(RES_TEMP)` (R71). -/
def rawtempEffect (b : Block) : Block × Word := (b, zext32 b.resTemp)

/-- PARITY: answer `zext_32(RES_PARITY)`, the received byte (R72). -/
def parityEffect (b : Block) : Block × Word := (b, zext32 b.resParity)

/-- STATUS: answer the status word (R73). -/
def statusEffect (b : Block) : Block × Word := (b, statusWord b)

/-- The meaning of VALID (R66). -/
def execValid (s : State) : Host.Outcome State Fault Refusal := serve .valid 0#6 validEffect s

/-- The meaning of MISSING (R67). -/
def execMissing (s : State) : Host.Outcome State Fault Refusal := serve .missing 0#6 missingEffect s

/-- The meaning of GETBIT (R68). -/
def execGetbit (idx : Idx) (s : State) : Host.Outcome State Fault Refusal := serve .getbit idx (getbitEffect idx) s

/-- The meaning of HUMID (R69). -/
def execHumid (s : State) : Host.Outcome State Fault Refusal := serve .humid 0#6 humidEffect s

/-- The meaning of TEMP (R70). -/
def execTemp (s : State) : Host.Outcome State Fault Refusal := serve .temp 0#6 tempEffect s

/-- The meaning of RAWTEMP (R71). -/
def execRawtemp (s : State) : Host.Outcome State Fault Refusal := serve .rawtemp 0#6 rawtempEffect s

/-- The meaning of PARITY (R72). -/
def execParity (s : State) : Host.Outcome State Fault Refusal := serve .parity 0#6 parityEffect s

/-- The meaning of STATUS, the one command served while the block is faulted (R73). -/
def execStatus (s : State) : Host.Outcome State Fault Refusal := serve .status 0#6 statusEffect s

/-- The humidity in percent as an exact rational; the division is the host's (R74). -/
def humidityPercent (b : Block) : Rat := (b.resHum.toNat : Rat) / 10

/-- The temperature in degrees as an exact rational; the division is the host's (R74). -/
def temperatureCelsius (b : Block) : Rat :=
  (if tSign b.resTemp then -1 else 1) * (tMag b.resTemp : Rat) / 10

end Sys2Proof.Machine
end

