-- ==== Sys2Proof/Machine/Dispatch.lean ====
section
/-!
DEFINITION. One arm per command: the meaning of each row of spec/30_encoding.md R38.
-/

namespace Sys2Proof.Machine

def exec (i : Instr) (s : State) : Host.Outcome State Fault Refusal :=
  match i with
  -- buffer access (spec/40_buffer_access.md)
  | .sets idx wdata => Sys2Proof.Machine.execSets idx wdata s
  | .gets idx => Sys2Proof.Machine.execGets idx s
  | .seth idx wdata => Sys2Proof.Machine.execSeth idx wdata s
  | .geth idx => Sys2Proof.Machine.execGeth idx s
  | .setl idx wdata => Sys2Proof.Machine.execSetl idx wdata s
  | .getl idx => Sys2Proof.Machine.execGetl idx s
  | .clear => Sys2Proof.Machine.execClear s
  -- decode (spec/41_decode.md)
  | .decode => Sys2Proof.Machine.execDecode s
  -- result and status reads (spec/42_results.md)
  | .valid => Sys2Proof.Machine.execValid s
  | .missing => Sys2Proof.Machine.execMissing s
  | .getbit idx => Sys2Proof.Machine.execGetbit idx s
  | .humid => Sys2Proof.Machine.execHumid s
  | .temp => Sys2Proof.Machine.execTemp s
  | .rawtemp => Sys2Proof.Machine.execRawtemp s
  | .parity => Sys2Proof.Machine.execParity s
  | .status => Sys2Proof.Machine.execStatus s

end Sys2Proof.Machine
end

