-- ==== Sys2Proof/Machine/Step.lean ====
section
/-!
DEFINITION. One step of the machine: the host's next event happens (spec/30_encoding.md R42,
spec/70_reset_and_hazards.md R86, R87), and how the host's next request is put in place.
-/

namespace Sys2Proof.Machine

/-- One step. A reset event resets the block; a request is decoded and its command executed, or its illegal word taken;
with nothing pending the block waits and nothing changes (log entry 3). -/
def step (s : State) : Host.Outcome State Fault Refusal :=
  match nextEvent s with
  | .idle         => .next s
  | .reset s'     => .next s'.resetBlock
  | .request r s' =>
    match decodeRequest r with
    | .ok i    => exec i s'
    | .error _ => serveIllegal s'

/-- The machine with the instruction whose bits are `w` as the host's next request: the very next step performs it (log
entry 2). -/
def State.withFetchWord (s : State) (nbits w : Nat) : State := s.withRequest (requestOfTableWord nbits w)

end Sys2Proof.Machine
end

