-- ==== Sys2Proof/Machine/Assembler.lean ====
section
/-!
DEFINITION. The assembler of spec/30_encoding.md R43: one command per line, the pseudo-instructions and their expansions.

It exists so that sequences of requests can be written down; the block knows nothing of it. It is total and refuses by
name. What R43 does not say (blanks around operands, empty lines) is in log entry 11.
-/

namespace Sys2Proof.Machine

/-- A number as written: R43 allows hex for values and decimal alone for indices. -/
inductive AsmNumber where
  | decimal (n : Nat)
  | hex (n : Nat)
  deriving DecidableEq, Repr

/-- What a line names: a command or a pseudo-instruction (R43). -/
inductive AsmName where
  | command (m : Mnemonic)
  | capbit
  | loadstart
  | newframe
  deriving DecidableEq, Repr

/-- A line: a name and its operands. -/
structure AsmLine where
  name     : AsmName
  operands : List AsmNumber
  deriving DecidableEq, Repr

/-- Why the assembler refuses a line. -/
inductive AsmError where
  /-- No command or pseudo-instruction has this name. -/
  | unknownMnemonic
  /-- The operands are not those the name takes. -/
  | wrongOperands
  /-- An operand is no number. -/
  | badNumber
  /-- An index above 63 ("unencodable") or not decimal. -/
  | badIndex
  /-- A value of 2^`DUR_WIDTH` or more. -/
  | valueTooLarge
  deriving DecidableEq, Repr

/-- An index operand: a decimal number from 0 to 63; 40..63 are accepted, the block faults them (R43). -/
def asmIndex : AsmNumber → Except AsmError Idx
  | .decimal n => if n ≤ 63 then .ok (BitVec.ofNat 6 n) else .error .badIndex
  | .hex _     => .error .badIndex

/-- A value operand: decimal or hex, from 0 to 2^`DUR_WIDTH` − 1 (R43). -/
def asmValue (cfg : Config) : AsmNumber → Except AsmError Word
  | .decimal n => if n < 2 ^ cfg.durWidth then .ok (BitVec.ofNat 32 n) else .error .valueTooLarge
  | .hex n     => if n < 2 ^ cfg.durWidth then .ok (BitVec.ofNat 32 n) else .error .valueTooLarge

/-- The commands that take `idx, value` (R43). -/
def storesValue : Mnemonic → Bool
  | .sets    => true
  | .gets    => false
  | .seth    => true
  | .geth    => false
  | .setl    => true
  | .getl    => false
  | .clear   => false
  | .decode  => false
  | .valid   => false
  | .missing => false
  | .getbit  => false
  | .humid   => false
  | .temp    => false
  | .rawtemp => false
  | .parity  => false
  | .status  => false

/-- The request of a command with an index and a value: `SETS`, `SETH` or `SETL` (R43). -/
def asmStore (cfg : Config) (m : Mnemonic) (idx value : AsmNumber) : Except AsmError Request :=
  match asmIndex idx, asmValue cfg value with
  | .error e, _    => .error e
  | .ok _, .error e => .error e
  | .ok i, .ok v    => .ok (encode (m.instr i v))

/-- The request of one command line: `MNEMONIC`, `MNEMONIC idx` or `MNEMONIC idx, value` (R43). -/
def asmCommand (cfg : Config) (m : Mnemonic) (operands : List AsmNumber) : Except AsmError Request :=
  match storesValue m, m.indexed, operands with
  | true, _, [i, v]      => asmStore cfg m i v
  | false, true, [i]     =>
    match asmIndex i with
    | .error e => .error e
    | .ok i    => .ok (encode (m.instr i 0#32))
  | false, false, []     => .ok (encode (m.instr 0#6 0#32))
  | _, _, _              => .error .wrongOperands

/-- The requests of a list of lines already turned into requests one by one; the first refusal wins. -/
def asmAll : List (Except AsmError Request) → Except AsmError (List Request)
  | []             => .ok []
  | .error e :: _  => .error e
  | .ok r :: rest  =>
    match asmAll rest with
    | .error e => .error e
    | .ok rs   => .ok (r :: rs)

/-- The requests of a line; a pseudo-instruction gives its expansion (R43). -/
def asmLine (cfg : Config) (l : AsmLine) : Except AsmError (List Request) :=
  match l.name, l.operands with
  | .command m, operands      => asmAll [asmCommand cfg m operands]
  | .capbit, [p, h, v]        => asmAll [asmStore cfg .seth p h, asmStore cfg .setl p v]
  | .loadstart, [a, b, c]     =>
    asmAll [asmStore cfg .sets (.decimal 0) a, asmStore cfg .sets (.decimal 1) b, asmStore cfg .sets (.decimal 2) c]
  | .newframe, []             => asmAll [asmCommand cfg .clear []]
  | .capbit, _                => .error .wrongOperands
  | .loadstart, _             => .error .wrongOperands
  | .newframe, _              => .error .wrongOperands

/-- A blank between the parts of a line. -/
def isBlank (c : Char) : Bool := c == ' ' || c == '\t' || c == '\r'

/-- Without the blanks at either end. -/
def stripBlanks (cs : List Char) : List Char := ((cs.dropWhile isBlank).reverse.dropWhile isBlank).reverse

/-- The parts of a text between separators. -/
def splitAtChar (sep : Char) : List Char → List (List Char)
  | []      => [[]]
  | c :: cs =>
    match splitAtChar sep cs with
    | []      => [[c]]
    | p :: ps => if c == sep then [] :: p :: ps else (c :: p) :: ps

/-- The names the assembler knows, in capitals. -/
def asmNames : List (String × AsmName) :=
  [("SETS", .command .sets), ("GETS", .command .gets), ("SETH", .command .seth), ("GETH", .command .geth),
   ("SETL", .command .setl), ("GETL", .command .getl), ("CLEAR", .command .clear), ("DECODE", .command .decode),
   ("VALID", .command .valid), ("MISSING", .command .missing), ("GETBIT", .command .getbit),
   ("HUMID", .command .humid), ("TEMP", .command .temp), ("RAWTEMP", .command .rawtemp),
   ("PARITY", .command .parity), ("STATUS", .command .status),
   ("CAPBIT", .capbit), ("LOADSTART", .loadstart), ("NEWFRAME", .newframe)]

/-- Look a name up; "Mnemonics are case-insensitive" (R43). -/
def asmNameOf (word : List Char) : Except AsmError AsmName :=
  match asmNames.find? (fun e => e.1.toList == word.map Char.toUpper) with
  | some e => .ok e.2
  | none   => .error .unknownMnemonic

/-- The value of a digit in a base up to 16. -/
def digitValue (base : Nat) (c : Char) : Option Nat :=
  let n :=
    if '0' ≤ c ∧ c ≤ '9' then c.toNat - '0'.toNat
    else if 'a' ≤ c ∧ c ≤ 'f' then c.toNat - 'a'.toNat + 10
    else if 'A' ≤ c ∧ c ≤ 'F' then c.toNat - 'A'.toNat + 10
    else base
  if n < base then some n else none

/-- The number these digits write after `acc`. -/
def digitsFrom (base acc : Nat) : List Char → Option Nat
  | []      => some acc
  | c :: cs =>
    match digitValue base c with
    | none   => none
    | some d => digitsFrom base (base * acc + d) cs

/-- A number: `0x` and hex digits, or decimal digits (R43). -/
def asmNumber (cs : List Char) : Except AsmError AsmNumber :=
  match cs with
  | []             => .error .badNumber
  | '0' :: 'x' :: [] => .error .badNumber
  | '0' :: 'x' :: ds =>
    match digitsFrom 16 0 ds with
    | some n => .ok (.hex n)
    | none   => .error .badNumber
  | ds =>
    match digitsFrom 10 0 ds with
    | some n => .ok (.decimal n)
    | none   => .error .badNumber

/-- The numbers of a list of operand texts; the first refusal wins. -/
def asmNumbers : List (List Char) → Except AsmError (List AsmNumber)
  | []          => .ok []
  | cs :: rest =>
    match asmNumber (stripBlanks cs), asmNumbers rest with
    | .error e, _     => .error e
    | .ok _, .error e => .error e
    | .ok n, .ok ns   => .ok (n :: ns)

/-- The operands of a line: nothing, or numbers separated by commas (R43). -/
def asmOperands (cs : List Char) : Except AsmError (List AsmNumber) :=
  match stripBlanks cs with
  | [] => .ok []
  | cs => asmNumbers (splitAtChar ',' cs)

/-- A line of text, without its comment; none when nothing is left ("`;` starts a comment", R43). -/
def parseLine (cs : List Char) : Except AsmError (Option AsmLine) :=
  let code := stripBlanks (cs.takeWhile (· != ';'))
  let word := code.takeWhile (fun c => isBlank c == false)
  if code = [] then .ok none
  else
    match asmNameOf word, asmOperands (code.drop word.length) with
    | .error e, _     => .error e
    | .ok _, .error e => .error e
    | .ok n, .ok ops  => .ok (some ⟨n, ops⟩)

/-- The requests of one line of text. -/
def asmText (cfg : Config) (cs : List Char) : Except AsmError (List Request) :=
  match parseLine cs with
  | .error e     => .error e
  | .ok none     => .ok []
  | .ok (some l) => asmLine cfg l

/-- The requests of several lines of text, in order; the first refusal wins. -/
def asmLines (cfg : Config) : List (List Char) → Except AsmError (List Request)
  | []         => .ok []
  | l :: rest =>
    match asmText cfg l, asmLines cfg rest with
    | .error e, _     => .error e
    | .ok _, .error e => .error e
    | .ok a, .ok b    => .ok (a ++ b)

/-- Assemble a text: one command per line (R43). -/
def assemble (cfg : Config) (text : String) : Except AsmError (List Request) :=
  asmLines cfg (splitAtChar '\n' text.toList)

end Sys2Proof.Machine
end

