-- ==== Sys2Proof/Machine/BlockStep.lean ====
section
/-!
DEFINITION. The step at any configuration: `Step(cfg, s, (cmd, wdata))` as spec/30_encoding.md R42 writes it, without the
decoder, and the machine it gives for a configuration other than the hardware's.

`step` is this machine at `Config.hw`; that the two agree is an obligation, not a definition. A configuration that breaks
a constraint of spec/00_scope.md R1 is refused.
-/

namespace Sys2Proof.Machine

/-- "Perform the rule of row op of rule R38 on s with idx and wdata" (R42). -/
def perform (cfg : Config) (m : Mnemonic) (idx : Idx) (wdata : Word) : Block → Block × Word :=
  match m with
  | .sets    => setsEffect cfg idx wdata
  | .gets    => getsEffect idx
  | .seth    => sethEffect cfg idx wdata
  | .geth    => gethEffect idx
  | .setl    => setlEffect cfg idx wdata
  | .getl    => getlEffect idx
  | .clear   => clearEffect
  | .decode  => decodeEffect cfg
  | .valid   => validEffect
  | .missing => missingEffect
  | .getbit  => getbitEffect idx
  | .humid   => humidEffect
  | .temp    => tempEffect
  | .rawtemp => rawtempEffect
  | .parity  => parityEffect
  | .status  => statusEffect

/-- `Step(cfg, s, (cmd, wdata))`: the next block and the response (R42). A word without a row is never admitted. -/
def blockStep (cfg : Config) (b : Block) (r : Request) : Block × Response :=
  match admission b (rowOf (opField r.cmd)) (rsvField r.cmd) (idxField r.cmd), rowOf (opField r.cmd) with
  | .fault c, _         => (faultEntry b c, ⟨false, 0#32⟩)
  | .admitted, some m   =>
    let done := perform cfg m (idxField r.cmd) r.wdata b
    (done.1, ⟨true, done.2⟩)
  | .admitted, none     => (b, ⟨false, 0#32⟩)
  | .reject, _          => (b, ⟨false, 0#32⟩)

/-- One step of the machine with this configuration (R1, R42, R86, R87). -/
def stepWith (cfg : Config) (s : State) : Host.Outcome State Fault Refusal :=
  if cfg.wf = false then .refused .illegalConfiguration
  else
    match nextEvent s with
    | .idle         => .next s
    | .reset s'     => .next s'.resetBlock
    | .request r s' =>
      let done := blockStep cfg s'.block r
      .next { s' with block := done.1, response := some done.2 }

end Sys2Proof.Machine
end

