-- ==== Sys2Proof/Safety.lean ====
section
/-!
DEFINITION. The terms claims about the machine use: what every reachable block satisfies, when a run has succeeded, what
the block reports to its host, and the conditions under which a command is performed.
-/

namespace Sys2Proof.Machine

/-- The fault register is consistent: CAUSE is 0 exactly while FAULTED is 0, and no code above 4 is recorded
(spec/10_state.md R16, spec/60_exceptions.md R75). -/
abbrev Block.FaultRegisterOk (b : Block) : Prop :=
  (b.faulted = false ↔ b.cause = 0#4) ∧ b.cause.toNat ≤ 4

/-- In CAPTURE no DECODE has run since the last reset or CLEAR, so every result register is 0 (spec/10_state.md R14,
R15). -/
abbrev Block.CaptureOk (b : Block) : Prop :=
  b.phase = .capture →
    b.resBit = Vector.replicate 40 false ∧ b.resMissing = 0#6 ∧ b.resHum = 0#16 ∧ b.resTemp = 0#16 ∧ b.resParity = 0#8
      ∧ b.resValid = false

/-- In DECODED the results are those of the durations the buffer holds now: it is read-only there (spec/10_state.md R15,
spec/92_eei_decisions.md D10). -/
abbrev Block.LatchOk (cfg : Config) (b : Block) : Prop := b.phase = .decoded → latchFrame cfg b = b

/-- Every duration fits in `DUR_WIDTH` bits (spec/10_state.md R7). -/
abbrev Block.WidthOk (cfg : Config) (b : Block) : Prop :=
  b.start.toList.all cfg.fits = true ∧ b.high.toList.all cfg.fits = true ∧ b.low.toList.all cfg.fits = true

/-- What holds of the block in every state a run reaches. -/
structure Block.Inv (cfg : Config) (b : Block) : Prop where
  faultRegister : b.FaultRegisterOk
  capture       : b.CaptureOk
  latch         : b.LatchOk cfg
  width         : b.WidthOk cfg

/-- A run that ends here has not faulted: "every claim about a run takes `FAULTED` = 0 at the end as a premise"
(spec/60_exceptions.md R78). -/
abbrev State.Completed (s : State) : Prop := s.block.faulted = false

/-- What the block reports of a capture (spec/60_exceptions.md R80, R85): nothing before a DECODE, a valid frame, or a
corrupted frame with its missing-bit count. The host's time-outs are no report of the block. -/
inductive Report where
  | none
  | validFrame
  | corruptedFrame (missing : Nat)
  deriving DecidableEq, Repr

/-- The block's report, read from PHASE, `RES_VALID` and `RES_MISSING`. -/
def Block.report (b : Block) : Report :=
  match b.phase with
  | .capture => .none
  | .decoded => if b.resValid then .validFrame else .corruptedFrame b.resMissing.toNat

/-- The machine after a fault with this cause code: FAULTED and CAUSE written, the response (0, 0), nothing else changed
(spec/60_exceptions.md R77). Claims write the code as the spec's number. -/
def State.faultedWith (s : State) (code : BitVec 4) : State :=
  { s with block := { s.block with faulted := true, cause := code }, response := some ⟨false, 0#32⟩ }

/-- The machine after a performed command that changes no register: the response (1, `rdata`) and nothing else
(spec/30_encoding.md R35). -/
def State.answers (s : State) (rdata : Word) : State := { s with response := some ⟨true, rdata⟩ }

/-- The machine after a performed command that leaves the block `b` and answers 0. -/
def State.becomes (s : State) (b : Block) : State := { s with block := b, response := some ⟨true, 0#32⟩ }

/-- Two blocks hold the same DecodedFrame. -/
abbrev SameResults (a b : Block) : Prop :=
  a.resBit = b.resBit ∧ a.resMissing = b.resMissing ∧ a.resHum = b.resHum ∧ a.resTemp = b.resTemp
    ∧ a.resParity = b.resParity ∧ a.resValid = b.resValid

/-- The command words of the opcode map, as the numbers of its "cmd value" column (spec/30_encoding.md R38). -/
abbrev TableWord (c : Cmd) : Prop :=
  (0x0800 ≤ c.toNat ∧ c.toNat ≤ 0x083F) ∨ (0x1000 ≤ c.toNat ∧ c.toNat ≤ 0x103F)
    ∨ (0x1800 ≤ c.toNat ∧ c.toNat ≤ 0x183F) ∨ (0x2000 ≤ c.toNat ∧ c.toNat ≤ 0x203F)
    ∨ (0x2800 ≤ c.toNat ∧ c.toNat ≤ 0x283F) ∨ (0x3000 ≤ c.toNat ∧ c.toNat ≤ 0x303F)
    ∨ c.toNat = 0x3800 ∨ c.toNat = 0x4000 ∨ c.toNat = 0x4800 ∨ c.toNat = 0x5000
    ∨ (0x5800 ≤ c.toNat ∧ c.toNat ≤ 0x583F) ∨ c.toNat = 0x6000 ∨ c.toNat = 0x6800
    ∨ c.toNat = 0x7000 ∨ c.toNat = 0x7800 ∨ c.toNat = 0x8000

/-- The numbers of the same words, listed: 64 for each of the seven indexed rows, one for each of the other nine
(spec/30_encoding.md R39). -/
def tableWords : List Nat :=
  [0x0800, 0x1000, 0x1800, 0x2000, 0x2800, 0x3000, 0x5800].flatMap (fun w => (List.range 64).map (w + ·))
    ++ [0x3800, 0x4000, 0x4800, 0x5000, 0x6000, 0x6800, 0x7000, 0x7800, 0x8000]

/-- The words whose index is outside its space: IDX ≥ 3 for SETS and GETS, IDX ≥ 40 for the other indexed rows
(spec/60_exceptions.md R75). -/
abbrev OutOfRangeWord (c : Cmd) : Prop :=
  (0x0803 ≤ c.toNat ∧ c.toNat ≤ 0x083F) ∨ (0x1003 ≤ c.toNat ∧ c.toNat ≤ 0x103F)
    ∨ (0x1828 ≤ c.toNat ∧ c.toNat ≤ 0x183F) ∨ (0x2028 ≤ c.toNat ∧ c.toNat ≤ 0x203F)
    ∨ (0x2828 ≤ c.toNat ∧ c.toNat ≤ 0x283F) ∨ (0x3028 ≤ c.toNat ∧ c.toNat ≤ 0x303F)
    ∨ (0x5828 ≤ c.toNat ∧ c.toNat ≤ 0x583F)

/-- The words of SETS, SETH and SETL. -/
abbrev SetWord (c : Cmd) : Prop :=
  (0x0800 ≤ c.toNat ∧ c.toNat ≤ 0x083F) ∨ (0x1800 ≤ c.toNat ∧ c.toNat ≤ 0x183F)
    ∨ (0x2800 ≤ c.toNat ∧ c.toNat ≤ 0x283F)

/-- The words of the result reads VALID, MISSING, GETBIT, HUMID, TEMP, RAWTEMP and PARITY. -/
abbrev ResultWord (c : Cmd) : Prop :=
  c.toNat = 0x4800 ∨ c.toNat = 0x5000 ∨ (0x5800 ≤ c.toNat ∧ c.toNat ≤ 0x583F) ∨ c.toNat = 0x6000
    ∨ c.toNat = 0x6800 ∨ c.toNat = 0x7000 ∨ c.toNat = 0x7800

/-- A word of the indexed row `op` with RSV ≠ 0 (spec/30_encoding.md R39). -/
abbrev IllegalIndexedForm (op : Nat) (c : Cmd) : Prop := c.toNat / 2048 = op ∧ c.toNat / 64 % 32 ≠ 0

/-- A word of the row `op` without an index, with RSV ≠ 0 or IDX ≠ 0 (spec/30_encoding.md R39). -/
abbrev IllegalFixedForm (op : Nat) (c : Cmd) : Prop := c.toNat / 2048 = op ∧ c.toNat % 2048 ≠ 0

/-- A request with this word raises ILLEGAL_COMMAND, cause 2, or is rejected with no new cause when the block is already
faulted (spec/30_encoding.md R39, spec/60_exceptions.md R78). -/
def RefusesWord (s : State) (r : Request) : Prop :=
  (s.block.faulted = false → step (s.withRequest r) = .next (s.faultedWith 2#4))
    ∧ (s.block.faulted = true → step (s.withRequest r) = .next s.reject)

/-- The durations of the source's worked example (spec/95_test_vectors.md section 1). -/
def workedExample : Block :=
  { Block.reset with
    start := #v[22, 78, 82]
    high  := #v[54, 54, 54, 54, 54, 54, 54, 54, 67, 54, 54, 54, 54, 53, 54, 54, 68, 54, 54, 54,
                54, 54, 54, 54, 67, 54, 54, 54, 54, 54, 54, 54, 65, 54, 54, 54, 54, 54, 54, 54]
    low   := #v[26, 26, 26, 26, 26, 26, 26, 73, 26, 26, 74, 26, 74, 74, 74, 72, 26, 26, 26, 26,
                26, 26, 26, 73, 26, 26, 74, 26, 74, 26, 73, 25, 26, 73, 26, 74, 74, 26, 73, 73] }

end Sys2Proof.Machine
end

