-- ==== Sys2Proof/Certificates/Slice0/Obligations.lean ====
section
/-!
DEFINITION. The statements for the provers. Each formalises rules of spec/ (named in its docstring and in
OBLIGATIONS.json), or says in its docstring that it rests on a choice of the model.
-/

open Sys2Proof Sys2Proof.Machine

/-! ### The command words -/

/-- R34, R38: for every command, decoding its encoding gives the command back, every operand at every value. -/
def Obligations.DecodeOfEncodeIsTheCommand : Prop :=
  ∀ i : Instr, decodeRequest (encode i) = .ok i

/-- R38, R40: where a request decodes, encoding the command gives the command word back, and the data word too if the
command is a SET. -/
def Obligations.EncodeOfDecodeIsTheWord : Prop :=
  ∀ (r : Request) (i : Instr), decodeRequest r = .ok i →
    (encode i).cmd = r.cmd ∧ (SetWord r.cmd → (encode i).wdata = r.wdata)

/-- R38: a word decodes to a command of a row exactly when it has that row's match under that row's mask, so that no two
rows share a word. -/
def Obligations.RowIsChosenByMatchAndMask : Prop :=
  ∀ (r : Request) (m : Mnemonic),
    (∃ i, decodeRequest r = .ok i ∧ i.mnemonic = m) ↔ r.cmd &&& m.mask = m.matchWord

/-- R39, R40: a word is illegal exactly when OP is unassigned, or RSV ≠ 0, or IDX ≠ 0 on a row without an index; it raises
ILLEGAL_COMMAND, or is rejected while faulted; 457 words are legal and 65079 are not. -/
def Obligations.IllegalWordsFaultOrAreRejected : Prop :=
  (∀ r : Request,
    (∃ e, decodeRequest r = .error e) ↔
      (r.cmd.toNat / 2048 = 0 ∨ 0x11 ≤ r.cmd.toNat / 2048 ∨ r.cmd.toNat / 64 % 32 ≠ 0
        ∨ (r.cmd.toNat / 2048 ∈ [0x07, 0x08, 0x09, 0x0A, 0x0C, 0x0D, 0x0E, 0x0F, 0x10] ∧ r.cmd.toNat % 64 ≠ 0)))
  ∧ (∀ (r : Request) (e : DecodeError) (s : State), decodeRequest r = .error e → RefusesWord s r)
  ∧ (∀ n : Nat, n < 65536 → ((decodeTableWord 16 n).isSome = true ↔ n ∈ tableWords))
  ∧ tableWords.length = 457 ∧ tableWords.Nodup ∧ 65536 - tableWords.length = 65079

/-- R38: a few words of the table, written out bit by bit, decode to the commands they stand for. -/
def Obligations.TableWordsDecodeToTheirCommands : Prop :=
  decodeRequest ⟨0b0000100000000010#16, 82⟩ = .ok (.sets 2 82)
  ∧ decodeRequest ⟨0b0010100000000111#16, 73⟩ = .ok (.setl 7 73)
  ∧ decodeRequest ⟨0b0101100000100111#16, 5⟩ = .ok (.getbit 39)
  ∧ decodeRequest ⟨0b0011100000000000#16, 0⟩ = .ok .clear
  ∧ decodeRequest ⟨0b0100000000000000#16, 0⟩ = .ok .decode
  ∧ decodeRequest ⟨0b1000000000000000#16, 0⟩ = .ok .status

/-! ### The step -/

/-- R42: with a request at the head of the host's script whose word decodes to a well-formed `i`, a step is `exec i` on the
machine with that request taken. -/
def Obligations.StepRunsTheDecodedCommand : Prop :=
  ∀ (s : State) (r : Request) (rest : List HostEvent) (i : Instr),
    s.script = .request r :: rest → decodeRequest r = .ok i → i.wellFormed Config.hw = true →
      step s = exec i { s with script := rest }

/-- R42: a step on a request is `Step(cfg, s, (cmd, wdata))` of R42 with the hardware's configuration: decoding and
dispatching agree with looking up the row, admitting, and performing the row's rule. -/
def Obligations.StepRefinesTheCommandStep : Prop :=
  ∀ (s : State) (r : Request) (rest : List HostEvent), s.script = .request r :: rest →
    step s = .next
      { block    := (blockStep Config.hw s.block r).1
        script   := rest
        response := some (blockStep Config.hw s.block r).2 }

/-- R42: the step is total: in every state it answers a next state, never a fault and never a refusal. -/
def Obligations.StepAlwaysAnswersNext : Prop :=
  ∀ s : State, ∃ t : State, step s = .next t

/-- The model's choice (log entry 3), after R87's "the block waits for the first request": with nothing pending a step
changes nothing; a reset event takes itself from the script, keeps the host's later events, and leaves no response. -/
def Obligations.HostSideOfWaitingAndReset : Prop :=
  ∀ s : State,
    (s.script = [] → step s = .next s)
    ∧ (∀ rest, s.script = .reset :: rest → ∃ t, step s = .next t ∧ t.script = rest ∧ t.response = none)

/-- R1: the hardware's parameters, the constraints on them, and that a configuration which breaks one is refused. That every
configuration meeting R1's table steps, also one that breaks the worked example's constraint on the windows, which
92_eei_decisions.md lists among the constraints, is the model's reading (log entry 6, DEDUCED). -/
def Obligations.BrokenConfigurationIsRefused : Prop :=
  Config.hw = ⟨32, 20, 30, 65, 80, none⟩
  ∧ (∀ cfg : Config, cfg.wf = true ↔
      (1 ≤ cfg.durWidth ∧ cfg.durWidth ≤ 32 ∧ cfg.shortMin ≤ cfg.shortMax ∧ cfg.shortMax < cfg.longMin
        ∧ cfg.longMin ≤ cfg.longMax ∧ cfg.longMax < 2 ^ cfg.durWidth
        ∧ ∀ lo hi, cfg.refWindow = some (lo, hi) → lo ≤ 53 ∧ 68 ≤ hi))
  ∧ (∀ (cfg : Config) (s : State), cfg.wf = false → stepWith cfg s = .refused .illegalConfiguration)
  ∧ (∀ (cfg : Config) (s : State), cfg.wf = true → ∃ t, stepWith cfg s = .next t)

/-! ### Reset -/

/-- R86: the reset event, in every state, leaves every duration and result 0, PHASE CAPTURE, FAULTED 0 and CAUSE 0; the
power-on state is the same. -/
def Obligations.ResetEventZeroesEveryRegister : Prop :=
  (∀ (s : State) (rest : List HostEvent), s.script = .reset :: rest →
    ∃ t, step s = .next t
      ∧ t.block = ⟨Vector.replicate 3 0#32, Vector.replicate 40 0#32, Vector.replicate 40 0#32, Vector.replicate 40 false,
          0#6, 0#16, 0#16, 0#8, false, .capture, false, 0#4⟩)
  ∧ State.reset.block = ⟨Vector.replicate 3 0#32, Vector.replicate 40 0#32, Vector.replicate 40 0#32,
      Vector.replicate 40 false, 0#6, 0#16, 0#16, 0#8, false, .capture, false, 0#4⟩

/-- R88: reset and CLEAR leave the same block but for the fault register; CLEAR is rejected while faulted, reset works. -/
def Obligations.ResetAndClearDifferOnlyInTheFaultRegister : Prop :=
  ∀ (s : State) (w : Word), ∃ c r : State,
    step (s.withRequest ⟨0x3800, w⟩) = .next c ∧ step { s with script := .reset :: s.script } = .next r
      ∧ r.block.faulted = false ∧ r.block.cause = 0
      ∧ (s.block.faulted = false →
          c.block = { r.block with faulted := s.block.faulted, cause := s.block.cause })
      ∧ (s.block.faulted = true → c.block = s.block ∧ c.response = some ⟨false, 0#32⟩)

/-- R8, R86 (vector B1): on a fresh buffer every duration read answers 0. -/
def Obligations.FreshBufferReadsZero : Prop :=
  ∀ i : Idx,
    (i.toNat < 3 → exec (.gets i) State.reset = .next (State.reset.answers 0#32))
    ∧ (i.toNat < 40 → exec (.geth i) State.reset = .next (State.reset.answers 0#32)
        ∧ exec (.getl i) State.reset = .next (State.reset.answers 0#32))

/-! ### Buffer access, one rule a statement: encoding, effect with its frame, every exception -/

/-- R44, with its corner case that CLEAR is the only request that leads from DECODED back to CAPTURE. -/
def Obligations.ClearEmptiesTheBuffer : Prop :=
  (∀ w : Word, decodeRequest ⟨0x3800, w⟩ = .ok .clear)
  ∧ ∀ s : State,
    (s.block.faulted = false →
      exec .clear s = .next (s.becomes
        ⟨Vector.replicate 3 0#32, Vector.replicate 40 0#32, Vector.replicate 40 0#32, Vector.replicate 40 false,
          0#6, 0#16, 0#16, 0#8, false, .capture, s.block.faulted, s.block.cause⟩))
    ∧ (s.block.faulted = true → exec .clear s = .next s.reject)
    ∧ (∀ r : Request, IllegalFixedForm 0x07 r.cmd → RefusesWord s r)
    ∧ (∀ (r : Request) (t : State), step (s.withRequest r) = .next t → s.block.phase = .decoded →
        t.block.phase = .capture → r.cmd = 0x3800)

/-- R45, with its corner case that DECODE never uses the value. -/
def Obligations.SetsWritesOneStartDuration : Prop :=
  ∀ (s : State) (i : Idx) (v : Word),
    decodeRequest ⟨0x0800 + i.setWidth 16, v⟩ = .ok (.sets i v)
    ∧ (s.block.faulted = false → s.block.phase = .capture → ∀ h : i.toNat < 3,
        exec (.sets i v) s = .next (s.becomes { s.block with start := s.block.start.set i.toNat v h }))
    ∧ (s.block.faulted = false → 3 ≤ i.toNat → exec (.sets i v) s = .next (s.faultedWith 1#4))
    ∧ (s.block.faulted = false → i.toNat < 3 → s.block.phase = .decoded →
        exec (.sets i v) s = .next (s.faultedWith 4#4))
    ∧ (s.block.faulted = true → exec (.sets i v) s = .next s.reject)
    ∧ (∀ r : Request, IllegalIndexedForm 0x01 r.cmd → RefusesWord s r)
    ∧ (∀ (cfg : Config) (h : i.toNat < 3),
        SameResults (latchFrame cfg { s.block with start := s.block.start.set i.toNat v h }) (latchFrame cfg s.block))

/-- R46. -/
def Obligations.GetsReadsOneStartDuration : Prop :=
  ∀ (s : State) (i : Idx) (v : Word),
    decodeRequest ⟨0x1000 + i.setWidth 16, v⟩ = .ok (.gets i)
    ∧ (s.block.faulted = false → ∀ h : i.toNat < 3,
        exec (.gets i) s = .next (s.answers s.block.start[i.toNat]))
    ∧ (s.block.faulted = false → 3 ≤ i.toNat → exec (.gets i) s = .next (s.faultedWith 1#4))
    ∧ (s.block.faulted = true → exec (.gets i) s = .next s.reject)
    ∧ (∀ r : Request, IllegalIndexedForm 0x02 r.cmd → RefusesWord s r)

/-- R47, with its corner case that the value affects decoding only where there is a reference window. -/
def Obligations.SethWritesOneReferenceDuration : Prop :=
  ∀ (s : State) (p : Idx) (v : Word),
    decodeRequest ⟨0x1800 + p.setWidth 16, v⟩ = .ok (.seth p v)
    ∧ (s.block.faulted = false → s.block.phase = .capture → ∀ h : p.toNat < 40,
        exec (.seth p v) s = .next (s.becomes { s.block with high := s.block.high.set p.toNat v h }))
    ∧ (s.block.faulted = false → 40 ≤ p.toNat → exec (.seth p v) s = .next (s.faultedWith 1#4))
    ∧ (s.block.faulted = false → p.toNat < 40 → s.block.phase = .decoded →
        exec (.seth p v) s = .next (s.faultedWith 4#4))
    ∧ (s.block.faulted = true → exec (.seth p v) s = .next s.reject)
    ∧ (∀ r : Request, IllegalIndexedForm 0x03 r.cmd → RefusesWord s r)
    ∧ (∀ (cfg : Config) (h : p.toNat < 40), cfg.refWindow = none →
        SameResults (latchFrame cfg { s.block with high := s.block.high.set p.toNat v h }) (latchFrame cfg s.block))

/-- R48. -/
def Obligations.GethReadsOneReferenceDuration : Prop :=
  ∀ (s : State) (p : Idx) (v : Word),
    decodeRequest ⟨0x2000 + p.setWidth 16, v⟩ = .ok (.geth p)
    ∧ (s.block.faulted = false → ∀ h : p.toNat < 40,
        exec (.geth p) s = .next (s.answers s.block.high[p.toNat]))
    ∧ (s.block.faulted = false → 40 ≤ p.toNat → exec (.geth p) s = .next (s.faultedWith 1#4))
    ∧ (s.block.faulted = true → exec (.geth p) s = .next s.reject)
    ∧ (∀ r : Request, IllegalIndexedForm 0x04 r.cmd → RefusesWord s r)

/-- R49, with its corner case that a value outside both windows, 0 included, is a missing bit. -/
def Obligations.SetlWritesOneDataDuration : Prop :=
  ∀ (s : State) (p : Idx) (v : Word),
    decodeRequest ⟨0x2800 + p.setWidth 16, v⟩ = .ok (.setl p v)
    ∧ (s.block.faulted = false → s.block.phase = .capture → ∀ h : p.toNat < 40,
        exec (.setl p v) s = .next (s.becomes { s.block with low := s.block.low.set p.toNat v h }))
    ∧ (s.block.faulted = false → 40 ≤ p.toNat → exec (.setl p v) s = .next (s.faultedWith 1#4))
    ∧ (s.block.faulted = false → p.toNat < 40 → s.block.phase = .decoded →
        exec (.setl p v) s = .next (s.faultedWith 4#4))
    ∧ (s.block.faulted = true → exec (.setl p v) s = .next s.reject)
    ∧ (∀ r : Request, IllegalIndexedForm 0x05 r.cmd → RefusesWord s r)
    ∧ (∀ d : Duration, ¬ (20 ≤ v.toNat ∧ v.toNat ≤ 30) → ¬ (65 ≤ v.toNat ∧ v.toNat ≤ 80) →
        classify Config.hw v d = .missing)

/-- R50, with its round trip `SETL p, v` then `GETL p`. -/
def Obligations.GetlReadsOneDataDuration : Prop :=
  ∀ (s : State) (p : Idx) (v : Word),
    decodeRequest ⟨0x3000 + p.setWidth 16, v⟩ = .ok (.getl p)
    ∧ (s.block.faulted = false → ∀ h : p.toNat < 40,
        exec (.getl p) s = .next (s.answers s.block.low[p.toNat]))
    ∧ (s.block.faulted = false → 40 ≤ p.toNat → exec (.getl p) s = .next (s.faultedWith 1#4))
    ∧ (s.block.faulted = true → exec (.getl p) s = .next s.reject)
    ∧ (∀ r : Request, IllegalIndexedForm 0x06 r.cmd → RefusesWord s r)
    ∧ (s.block.faulted = false → s.block.phase = .capture → p.toNat < 40 → ∃ t : State,
        exec (.setl p v) s = .next t ∧ exec (.getl p) t = .next (t.answers v))

/-- R8, R50: a duration written in CAPTURE is the one read back at its index, and every other index of the same file reads
as it did before. -/
def Obligations.WrittenDurationIsReadBack : Prop :=
  ∀ (s : State) (v : Word), s.block.faulted = false → s.block.phase = .capture →
    (∀ i : Idx, i.toNat < 3 → ∃ t, exec (.sets i v) s = .next t ∧ exec (.gets i) t = .next (t.answers v)
      ∧ ∀ j : Idx, j.toNat < 3 → j ≠ i → ∃ x, exec (.gets j) t = .next (t.answers x)
          ∧ exec (.gets j) s = .next (s.answers x))
    ∧ (∀ i : Idx, i.toNat < 40 → ∃ t, exec (.seth i v) s = .next t ∧ exec (.geth i) t = .next (t.answers v)
      ∧ ∀ j : Idx, j.toNat < 40 → j ≠ i → ∃ x, exec (.geth j) t = .next (t.answers x)
          ∧ exec (.geth j) s = .next (s.answers x))
    ∧ (∀ i : Idx, i.toNat < 40 → ∃ t, exec (.setl i v) s = .next t ∧ exec (.getl i) t = .next (t.answers v)
      ∧ ∀ j : Idx, j.toNat < 40 → j ≠ i → ∃ x, exec (.getl j) t = .next (t.answers x)
          ∧ exec (.getl j) s = .next (s.answers x))

/-- R25, R37: at every configuration, so at every `DUR_WIDTH`, an admitted SET stores `wdata[DUR_WIDTH-1:0]`, the data word
modulo 2^`DUR_WIDTH`, in the one entry it names and changes nothing else, and a GET answers the whole entry. -/
def Obligations.SetStoresTheLowBitsAtEveryWidth : Prop :=
  ∀ (cfg : Config) (b : Block) (i : Idx) (v : Word), b.faulted = false →
    (b.phase = .capture →
      (∀ h : i.toNat < 3, blockStep cfg b ⟨0x0800 + i.setWidth 16, v⟩
        = ({ b with start := b.start.set i.toNat (BitVec.ofNat 32 (v.toNat % 2 ^ cfg.durWidth)) h }, ⟨true, 0#32⟩))
      ∧ (∀ h : i.toNat < 40, blockStep cfg b ⟨0x1800 + i.setWidth 16, v⟩
        = ({ b with high := b.high.set i.toNat (BitVec.ofNat 32 (v.toNat % 2 ^ cfg.durWidth)) h }, ⟨true, 0#32⟩))
      ∧ (∀ h : i.toNat < 40, blockStep cfg b ⟨0x2800 + i.setWidth 16, v⟩
        = ({ b with low := b.low.set i.toNat (BitVec.ofNat 32 (v.toNat % 2 ^ cfg.durWidth)) h }, ⟨true, 0#32⟩)))
    ∧ (∀ h : i.toNat < 3, blockStep cfg b ⟨0x1000 + i.setWidth 16, v⟩ = (b, ⟨true, b.start[i.toNat]⟩))
    ∧ (∀ h : i.toNat < 40, blockStep cfg b ⟨0x2000 + i.setWidth 16, v⟩ = (b, ⟨true, b.high[i.toNat]⟩))
    ∧ (∀ h : i.toNat < 40, blockStep cfg b ⟨0x3000 + i.setWidth 16, v⟩ = (b, ⟨true, b.low[i.toNat]⟩))

/-! ### Classifier, assembly, validation, DECODE -/

/-- R52: `Classify` at every legal configuration, both windows inclusive, a failed reference check first; the windows do
not overlap, so each verdict has one condition; and the classes at the hardware's values. -/
def Obligations.ClassifyFollowsTheWindows : Prop :=
  (∀ (cfg : Config) (d r : Duration), cfg.wf = true →
    let refFails := ∃ lo hi, cfg.refWindow = some (lo, hi) ∧ ¬ (lo ≤ r.toNat ∧ r.toNat ≤ hi)
    (classify cfg d r = .zero ↔ ¬ refFails ∧ cfg.shortMin ≤ d.toNat ∧ d.toNat ≤ cfg.shortMax)
    ∧ (classify cfg d r = .one ↔ ¬ refFails ∧ cfg.longMin ≤ d.toNat ∧ d.toNat ≤ cfg.longMax))
  ∧ (∀ d r : Duration,
    (d.toNat ≤ 19 → classify Config.hw d r = .missing)
    ∧ (20 ≤ d.toNat ∧ d.toNat ≤ 30 → classify Config.hw d r = .zero)
    ∧ (31 ≤ d.toNat ∧ d.toNat ≤ 64 → classify Config.hw d r = .missing)
    ∧ (65 ≤ d.toNat ∧ d.toNat ≤ 80 → classify Config.hw d r = .one)
    ∧ (81 ≤ d.toNat → classify Config.hw d r = .missing))

/-- R53, R54: the bit of a position is 1 exactly when its data-phase duration classifies as ONE, and RES_MISSING is the
number of positions that classify as MISSING, 0 to 40, without wrapping in its six bits. -/
def Obligations.LatchedBitsAndMissingCount : Prop :=
  ∀ (cfg : Config) (b : Block),
    (∀ p : Fin 40, (latchFrame cfg b).resBit[p] = true ↔ classify cfg b.low[p] b.high[p] = .one)
    ∧ (latchFrame cfg b).resMissing.toNat
        = (Finset.univ.filter fun p : Fin 40 => classify cfg b.low[p] b.high[p] = .missing).card
    ∧ (latchFrame cfg b).resMissing.toNat ≤ 40

/-- R55, R56, R57: the three fields are their frame positions' bits, most significant bit first. -/
def Obligations.FieldsAreMostSignificantBitFirst : Prop :=
  ∀ (cfg : Config) (b : Block),
    (∀ j : Fin 16, (latchFrame cfg b).resHum.getLsbD (15 - j.val) = (latchFrame cfg b).resBit[j.val])
    ∧ (∀ j : Fin 16, (latchFrame cfg b).resTemp.getLsbD (15 - j.val) = (latchFrame cfg b).resBit[16 + j.val])
    ∧ (∀ j : Fin 8, (latchFrame cfg b).resParity.getLsbD (7 - j.val) = (latchFrame cfg b).resBit[32 + j.val])

/-- R58–R61: the verdict of DECODE is that no bit is missing, the parity byte is the exact sum of the four data bytes
modulo 256, the humidity is at most 1000 tenths and the temperature lies from −500 to +1000 tenths. -/
def Obligations.VerdictIsTheFourTests : Prop :=
  ∀ (cfg : Config) (b t : Block), latchFrame cfg b = t →
    (t.resValid = true ↔
      t.resMissing = 0#6
      ∧ t.resParity.toNat
          = (t.resHum.toNat / 256 + t.resHum.toNat % 256 + t.resTemp.toNat / 256 + t.resTemp.toNat % 256) % 256
      ∧ t.resHum.toNat ≤ 1000
      ∧ ((t.resTemp.toNat < 0x8000 ∧ t.resTemp.toNat ≤ 1000)
          ∨ (0x8000 ≤ t.resTemp.toNat ∧ t.resTemp.toNat - 0x8000 ≤ 500)))

/-- R63: DECODE is performed in either phase, writes exactly the result registers and PHASE, answers 0 and never faults
for the durations; its illegal forms fault and it is rejected while faulted. The values written are those of R53–R61 for
the hardware's windows, on the data-phase durations. -/
def Obligations.DecodeLatchesTheFrame : Prop :=
  (∀ w : Word, decodeRequest ⟨0x4000, w⟩ = .ok .decode)
  ∧ ∀ s : State,
    (s.block.faulted = false → ∃ b : Block,
      exec .decode s = .next (s.becomes b) ∧ b = latchFrame Config.hw s.block
      ∧ b.start = s.block.start ∧ b.high = s.block.high ∧ b.low = s.block.low
      ∧ b.faulted = s.block.faulted ∧ b.cause = s.block.cause ∧ b.phase = .decoded
      ∧ (∀ p : Fin 40, b.resBit[p] = true ↔ 65 ≤ s.block.low[p].toNat ∧ s.block.low[p].toNat ≤ 80)
      ∧ b.resMissing.toNat
          = (Finset.univ.filter fun p : Fin 40 =>
              ¬ (20 ≤ s.block.low[p].toNat ∧ s.block.low[p].toNat ≤ 30)
                ∧ ¬ (65 ≤ s.block.low[p].toNat ∧ s.block.low[p].toNat ≤ 80)).card
      ∧ (∀ j : Fin 16, b.resHum.getLsbD (15 - j.val) = b.resBit[j.val])
      ∧ (∀ j : Fin 16, b.resTemp.getLsbD (15 - j.val) = b.resBit[16 + j.val])
      ∧ (∀ j : Fin 8, b.resParity.getLsbD (7 - j.val) = b.resBit[32 + j.val])
      ∧ (b.resValid = true ↔
          b.resMissing = 0#6
          ∧ b.resParity.toNat
              = (b.resHum.toNat / 256 + b.resHum.toNat % 256 + b.resTemp.toNat / 256 + b.resTemp.toNat % 256) % 256
          ∧ b.resHum.toNat ≤ 1000
          ∧ ((b.resTemp.toNat < 0x8000 ∧ b.resTemp.toNat ≤ 1000)
              ∨ (0x8000 ≤ b.resTemp.toNat ∧ b.resTemp.toNat - 0x8000 ≤ 500))))
    ∧ (s.block.faulted = true → exec .decode s = .next s.reject)
    ∧ (∀ r : Request, IllegalFixedForm 0x08 r.cmd → RefusesWord s r)

/-- R51–R61, R65: at every legal configuration, a buffer whose data-phase durations send the five bytes (a duration in the
long window for a 1, in the short window for a 0, most significant bit first) and whose reference durations pass the
reference check decodes to exactly those bytes, with nothing missing, and is valid exactly when the last byte is the sum of
the others modulo 256 and both fields are in range. -/
def Obligations.SentFrameIsTheDecodedFrame : Prop :=
  ∀ (cfg : Config) (b t : Block) (f0 f1 f2 f3 f4 : BitVec 8), cfg.wf = true →
    (∀ p : Fin 40, referenceOk cfg b.high[p] = true) →
    (∀ p : Fin 40,
      if (f0 ++ f1 ++ f2 ++ f3 ++ f4).getMsbD p.val
      then cfg.longMin ≤ b.low[p].toNat ∧ b.low[p].toNat ≤ cfg.longMax
      else cfg.shortMin ≤ b.low[p].toNat ∧ b.low[p].toNat ≤ cfg.shortMax) →
    latchFrame cfg b = t →
    t.resMissing = 0#6 ∧ t.resHum = f0 ++ f1 ∧ t.resTemp = f2 ++ f3 ∧ t.resParity = f4
    ∧ (t.resValid = true ↔
        f4.toNat = (f0.toNat + f1.toNat + f2.toNat + f3.toNat) % 256
        ∧ f0.toNat * 256 + f1.toNat ≤ 1000
        ∧ ((f2.toNat < 128 ∧ f2.toNat * 256 + f3.toNat ≤ 1000)
            ∨ (128 ≤ f2.toNat ∧ (f2.toNat - 128) * 256 + f3.toNat ≤ 500)))

/-- R1 (the sentence after its table) and 95_test_vectors.md section 1: the source's worked example decodes to its stated
result at exactly those legal configurations whose windows admit its durations, the hardware's among them. -/
def Obligations.WorkedExampleDecodes : Prop :=
  Config.hw.wf = true ∧ Config.hw.admitsWorkedExample = true
  ∧ ∀ (cfg : Config) (t : Block), cfg.wf = true →
    latchFrame cfg workedExample = t →
    (cfg.admitsWorkedExample = true ↔
      t.resValid = true ∧ t.resMissing = 0#6 ∧ t.resHum = 303#16 ∧ t.resTemp = 298#16 ∧ t.resParity = 0x5B#8)

/-- R62: DECODE's effect does not depend on the handshake durations: with any others in their place, the next state is the
same but for them. -/
def Obligations.DecodeDoesNotReadStart : Prop :=
  ∀ (s : State) (x : Vector Duration 3), s.block.faulted = false → ∃ t : State,
    exec .decode s = .next t
    ∧ exec .decode { s with block := { s.block with start := x } }
        = .next { t with block := { t.block with start := x } }

/-- R10, R52 (vector D5): at every configuration without a reference window, the hardware's among them, the DecodedFrame
depends on the data-phase durations alone. -/
def Obligations.FrameDependsOnDataPhaseAlone : Prop :=
  (∀ (cfg : Config) (a b : Block), cfg.refWindow = none → a.low = b.low →
    SameResults (latchFrame cfg a) (latchFrame cfg b))
  ∧ (∀ s t : State, s.block.faulted = false → t.block.faulted = false → s.block.low = t.block.low →
      ∃ s' t' : State, exec .decode s = .next s' ∧ exec .decode t = .next t' ∧ SameResults s'.block t'.block)

/-- R64: two DECODEs with any requests between them but CLEAR (a SET faults there) write identical values to every result
register, at every configuration. -/
def Obligations.DecodeIsIdempotent : Prop :=
  ∀ (cfg : Config) (b : Block) (between : List Request),
    (∀ r ∈ between, r.cmd ≠ 0x3800) →
    SameResults
      (latchFrame cfg (between.foldl (fun b r => (blockStep cfg b r).1) (latchFrame cfg b)))
      (latchFrame cfg b)

/-- R80: a corrupted frame is a result: DECODE of an unfaulted block always completes with `ok` = 1 and leaves it
unfaulted; bits outside both windows make the verdict 0 and are counted; what the block then reports is the valid frame
exactly when the verdict is 1. -/
def Obligations.CorruptedFrameIsAResult : Prop :=
  ∀ s : State, s.block.faulted = false → ∃ t : State,
    exec .decode s = .next t ∧ t.response = some ⟨true, 0#32⟩ ∧ t.block.faulted = false ∧ t.block.phase = .decoded
    ∧ ((∃ p : Fin 40, classify Config.hw s.block.low[p] s.block.high[p] = .missing) →
        0 < t.block.resMissing.toNat ∧ t.block.resValid = false
        ∧ t.block.report = .corruptedFrame t.block.resMissing.toNat)
    ∧ (t.block.report = .validFrame ↔ t.block.resValid = true)

/-! ### Result and status reads, one rule a statement -/

/-- R66. -/
def Obligations.ValidReadsTheVerdict : Prop :=
  (∀ w : Word, decodeRequest ⟨0x4800, w⟩ = .ok .valid)
  ∧ ∀ s : State,
    (s.block.faulted = false → s.block.phase = .decoded →
      exec .valid s = .next (s.answers (if s.block.resValid then 1#32 else 0#32)))
    ∧ (s.block.faulted = false → s.block.phase = .capture → exec .valid s = .next (s.faultedWith 3#4))
    ∧ (s.block.faulted = true → exec .valid s = .next s.reject)
    ∧ (∀ r : Request, IllegalFixedForm 0x09 r.cmd → RefusesWord s r)

/-- R67; its clauses "0..40" and "if `rdata` > 0, then VALID reads 0" for results that DECODE latched. -/
def Obligations.MissingReadsTheCount : Prop :=
  (∀ w : Word, decodeRequest ⟨0x5000, w⟩ = .ok .missing)
  ∧ ∀ s : State,
    (s.block.faulted = false → s.block.phase = .decoded →
      exec .missing s = .next (s.answers (BitVec.ofNat 32 s.block.resMissing.toNat)))
    ∧ (s.block.phase = .decoded → s.block.LatchOk Config.hw →
        s.block.resMissing.toNat ≤ 40 ∧ (0 < s.block.resMissing.toNat → s.block.resValid = false))
    ∧ (s.block.faulted = false → s.block.phase = .capture → exec .missing s = .next (s.faultedWith 3#4))
    ∧ (s.block.faulted = true → exec .missing s = .next s.reject)
    ∧ (∀ r : Request, IllegalFixedForm 0x0A r.cmd → RefusesWord s r)

/-- R68; its corner case that a missing bit reads 0 for results that DECODE latched. -/
def Obligations.GetbitReadsOneDecodedBit : Prop :=
  ∀ (s : State) (p : Idx) (v : Word),
    decodeRequest ⟨0x5800 + p.setWidth 16, v⟩ = .ok (.getbit p)
    ∧ (s.block.faulted = false → s.block.phase = .decoded → ∀ h : p.toNat < 40,
        exec (.getbit p) s = .next (s.answers (if s.block.resBit[p.toNat] then 1#32 else 0#32)))
    ∧ (s.block.faulted = false → 40 ≤ p.toNat → exec (.getbit p) s = .next (s.faultedWith 1#4))
    ∧ (s.block.faulted = false → p.toNat < 40 → s.block.phase = .capture →
        exec (.getbit p) s = .next (s.faultedWith 3#4))
    ∧ (s.block.faulted = true → exec (.getbit p) s = .next s.reject)
    ∧ (∀ r : Request, IllegalIndexedForm 0x0B r.cmd → RefusesWord s r)
    ∧ (s.block.LatchOk Config.hw → s.block.phase = .decoded → ∀ h : p.toNat < 40,
        classify Config.hw s.block.low[p.toNat] s.block.high[p.toNat] = .missing → s.block.resBit[p.toNat] = false)

/-- R69; its corner case that a value above 1000 makes VALID read 0 for results that DECODE latched. -/
def Obligations.HumidReadsTheHumidity : Prop :=
  (∀ w : Word, decodeRequest ⟨0x6000, w⟩ = .ok .humid)
  ∧ ∀ s : State,
    (s.block.faulted = false → s.block.phase = .decoded →
      exec .humid s = .next (s.answers (BitVec.ofNat 32 s.block.resHum.toNat)))
    ∧ (s.block.faulted = false → s.block.phase = .capture → exec .humid s = .next (s.faultedWith 3#4))
    ∧ (s.block.faulted = true → exec .humid s = .next s.reject)
    ∧ (∀ r : Request, IllegalFixedForm 0x0C r.cmd → RefusesWord s r)
    ∧ (s.block.LatchOk Config.hw → s.block.phase = .decoded → 1000 < s.block.resHum.toNat →
        s.block.resValid = false)

/-- R70. -/
def Obligations.TempReadsTheSignedTenths : Prop :=
  (∀ w : Word, decodeRequest ⟨0x6800, w⟩ = .ok .temp)
  ∧ ∀ s : State,
    (s.block.faulted = false → s.block.phase = .decoded →
      exec .temp s = .next (s.answers
        (if s.block.resTemp.getLsbD 15
         then BitVec.ofNat 32 ((2 ^ 32 - s.block.resTemp.toNat % 2 ^ 15) % 2 ^ 32)
         else BitVec.ofNat 32 (s.block.resTemp.toNat % 2 ^ 15))))
    ∧ (s.block.faulted = false → s.block.phase = .capture → exec .temp s = .next (s.faultedWith 3#4))
    ∧ (s.block.faulted = true → exec .temp s = .next s.reject)
    ∧ (∀ r : Request, IllegalFixedForm 0x0D r.cmd → RefusesWord s r)

/-- R71. -/
def Obligations.RawtempReadsTheRawField : Prop :=
  (∀ w : Word, decodeRequest ⟨0x7000, w⟩ = .ok .rawtemp)
  ∧ ∀ s : State,
    (s.block.faulted = false → s.block.phase = .decoded →
      exec .rawtemp s = .next (s.answers (BitVec.ofNat 32 s.block.resTemp.toNat)))
    ∧ (s.block.faulted = false → s.block.phase = .capture → exec .rawtemp s = .next (s.faultedWith 3#4))
    ∧ (s.block.faulted = true → exec .rawtemp s = .next s.reject)
    ∧ (∀ r : Request, IllegalFixedForm 0x0E r.cmd → RefusesWord s r)

/-- R72. -/
def Obligations.ParityReadsTheReceivedByte : Prop :=
  (∀ w : Word, decodeRequest ⟨0x7800, w⟩ = .ok .parity)
  ∧ ∀ s : State,
    (s.block.faulted = false → s.block.phase = .decoded →
      exec .parity s = .next (s.answers (BitVec.ofNat 32 s.block.resParity.toNat)))
    ∧ (s.block.faulted = false → s.block.phase = .capture → exec .parity s = .next (s.faultedWith 3#4))
    ∧ (s.block.faulted = true → exec .parity s = .next s.reject)
    ∧ (∀ r : Request, IllegalFixedForm 0x0F r.cmd → RefusesWord s r)

/-- R17, R73: STATUS is performed in every state, faulted or not, and answers PHASE in bit 0, FAULTED in bit 1, CAUSE in
bits 7..4 and 0 elsewhere; its illegal forms fault, or are rejected with no new cause when already faulted. -/
def Obligations.StatusReadsTheStatusWord : Prop :=
  (∀ w : Word, decodeRequest ⟨0x8000, w⟩ = .ok .status)
  ∧ ∀ s : State,
    exec .status s = .next (s.answers (BitVec.ofNat 32
      ((if s.block.phase = .decoded then 1 else 0) + (if s.block.faulted then 2 else 0) + 16 * s.block.cause.toNat)))
    ∧ (∀ r : Request, IllegalFixedForm 0x10 r.cmd → RefusesWord s r)

/-- R69, R70, R74: a tenth of what HUMID answers is the humidity in percent, and a tenth of what TEMP answers, read as a
signed 32-bit number, is the temperature, as exact rationals. -/
def Obligations.TenthsAreTheRealObservations : Prop :=
  ∀ s : State, s.block.faulted = false → s.block.phase = .decoded → ∃ h w : Word,
    exec .humid s = .next (s.answers h) ∧ exec .temp s = .next (s.answers w)
    ∧ (h.toNat : Rat) / 10 = humidityPercent s.block ∧ (w.toInt : Rat) / 10 = temperatureCelsius s.block
    ∧ humidityPercent s.block = (s.block.resHum.toNat : Rat) / 10
    ∧ temperatureCelsius s.block
        = (if s.block.resTemp.getLsbD 15 then -1 else 1) * ((s.block.resTemp.toNat % 2 ^ 15 : Nat) : Rat) / 10
    ∧ -32767 ≤ w.toInt ∧ w.toInt ≤ 32767

/-- R59, R60, R61 (property S8): where VALID reads 1, the humidity lies in [0, 100] percent and the temperature in
[−50, 100] degrees, for results that DECODE latched. -/
def Obligations.ValidFrameIsInPhysicalRange : Prop :=
  ∀ (cfg : Config) (b : Block), b.LatchOk cfg → b.phase = .decoded → b.resValid = true →
    0 ≤ humidityPercent b ∧ humidityPercent b ≤ 100 ∧ -50 ≤ temperatureCelsius b ∧ temperatureCelsius b ≤ 100

/-! ### Faults -/

/-- R76, R78: what admission decides for each word, in order of priority: while faulted a legal STATUS is performed and
every other request rejected with nothing changed; else illegal, out of range, phase; every other word is performed with
`ok` = 1 and no fault. -/
def Obligations.AdmissionFollowsThePriority : Prop :=
  ∀ (s : State) (r : Request),
    if s.block.faulted = true then
      if r.cmd = 0x8000 then ∃ rdata : Word, step (s.withRequest r) = .next (s.answers rdata)
      else step (s.withRequest r) = .next s.reject
    else if ¬ TableWord r.cmd then step (s.withRequest r) = .next (s.faultedWith 2#4)
    else if OutOfRangeWord r.cmd then step (s.withRequest r) = .next (s.faultedWith 1#4)
    else if SetWord r.cmd ∧ s.block.phase = .decoded then step (s.withRequest r) = .next (s.faultedWith 4#4)
    else if ResultWord r.cmd ∧ s.block.phase = .capture then step (s.withRequest r) = .next (s.faultedWith 3#4)
    else ∃ (t : State) (rdata : Word), step (s.withRequest r) = .next t ∧ t.script = s.script
      ∧ t.block.faulted = false ∧ t.block.cause = s.block.cause ∧ t.response = some ⟨true, rdata⟩

/-- R77: fault entry is precise: a step that takes an unfaulted block to a faulted one writes FAULTED and CAUSE and nothing
else of the block, answers (0, 0), and records one of the codes 1 to 4. -/
def Obligations.FaultEntryWritesOnlyTheFaultRegister : Prop :=
  ∀ s t : State, step s = .next t → s.block.faulted = false → t.block.faulted = true →
    t.block = { s.block with faulted := true, cause := t.block.cause }
    ∧ 1 ≤ t.block.cause.toNat ∧ t.block.cause.toNat ≤ 4
    ∧ t.response = some ⟨false, 0#32⟩

/-- R79: no step but the reset event leaves the fault state or changes any register of a faulted block. -/
def Obligations.OnlyResetLeavesTheFaultState : Prop :=
  ∀ s t : State, step s = .next t → s.block.faulted = true → (∀ rest, s.script ≠ .reset :: rest) →
    t.block = s.block

/-- R78: a faulted block is stuck for all work until reset: whatever number of steps are taken on requests alone, every
register keeps its value, CAUSE included, and the run does not end completed. -/
def Obligations.FaultIsStickyAlongEveryRun : Prop :=
  ∀ (k : Nat) (s t : State), s.block.faulted = true → (∀ e ∈ s.script, e ≠ .reset) →
    Host.Core.run Sys2Proof.core k s = .next t → t.block = s.block ∧ ¬ t.Completed

/-! ### Whole-machine rules -/

/-- R8–R12, R14, R15: what a request may write: `start` only SETS with a legal index or CLEAR, `high` only SETH or CLEAR,
`low` only SETL or CLEAR, the results and PHASE only DECODE or CLEAR. -/
def Obligations.OnlyNamedCommandsWriteEachRegister : Prop :=
  ∀ (s t : State) (r : Request), step (s.withRequest r) = .next t → r.cmd ≠ 0x3800 →
    (¬ (0x0800 ≤ r.cmd.toNat ∧ r.cmd.toNat ≤ 0x0802) → t.block.start = s.block.start)
    ∧ (¬ (0x1800 ≤ r.cmd.toNat ∧ r.cmd.toNat ≤ 0x1827) → t.block.high = s.block.high)
    ∧ (¬ (0x2800 ≤ r.cmd.toNat ∧ r.cmd.toNat ≤ 0x2827) → t.block.low = s.block.low)
    ∧ (r.cmd ≠ 0x4000 → SameResults t.block s.block ∧ t.block.phase = s.block.phase)

/-- R27: a read command changes no register when it is performed, and only the fault register when it is not. -/
def Obligations.ReadsHaveNoSideEffect : Prop :=
  ∀ (s : State) (i : Instr),
    i.mnemonic ∈ [.gets, .geth, .getl, .valid, .missing, .getbit, .humid, .temp, .rawtemp, .parity, .status] →
    ∃ t : State, exec i s = .next t ∧ t.script = s.script
      ∧ ((∃ rdata, t.response = some ⟨true, rdata⟩) → t.block = s.block)
      ∧ (t.response = some ⟨false, 0#32⟩ →
          t.block = { s.block with faulted := true, cause := t.block.cause })

/-- R37: the data word of a request that is no SET has no effect on any state or response. -/
def Obligations.DataWordOfOtherCommandsIsIgnored : Prop :=
  ∀ (s : State) (c : Cmd) (v w : Word), ¬ SetWord c →
    step (s.withRequest ⟨c, v⟩) = step (s.withRequest ⟨c, w⟩)

/-- The invariant every step keeps, in every state that has it (R14, R15, R16, R75, D10): the fault register is consistent,
the results are 0 in CAPTURE and are the decoded buffer in DECODED. -/
def Obligations.StepKeepsTheInvariant : Prop :=
  ∀ s t : State, s.block.Inv Config.hw → step s = .next t → t.block.Inv Config.hw

/-- The same invariant at every legal configuration, with the width of the durations (R1, R7), for the step at that
configuration. -/
def Obligations.StepAtAnyConfigurationKeepsTheInvariant : Prop :=
  ∀ (cfg : Config) (s t : State), s.block.Inv cfg → stepWith cfg s = .next t → t.block.Inv cfg

/-- The invariant holds at reset, at every configuration (R86). -/
def Obligations.InvariantHoldsAtReset : Prop :=
  ∀ cfg : Config, State.reset.block.Inv cfg

/-! ### The assembler -/

/-- R43: a command line with operands in range assembles to one request, which decodes to the command with those operands.
"The assembler refuses anything above 63": an index above 63 is refused for each of the seven indexed commands, whatever
the value beside it. The model's reading (log entry 11, PRESUMED: R43 gives only the range of a value and the operands of a
line): a value of 2^`DUR_WIDTH` or more, decimal or hex, and a line of an indexed command with an operand missing are
refused by name. -/
def Obligations.AssembledCommandDecodes : Prop :=
  ∀ (cfg : Config) (n v : Nat), cfg.durWidth ≤ 32 →
    (n ≤ 63 → v < 2 ^ cfg.durWidth →
      ∀ m ∈ [Mnemonic.sets, .seth, .setl], ∃ r : Request,
        asmLine cfg ⟨.command m, [.decimal n, .decimal v]⟩ = .ok [r]
        ∧ asmLine cfg ⟨.command m, [.decimal n, .hex v]⟩ = .ok [r]
        ∧ decodeRequest r = .ok (m.instr (BitVec.ofNat 6 n) (BitVec.ofNat 32 v))
        ∧ r.wdata.toNat = v)
    ∧ (n ≤ 63 → ∀ m ∈ [Mnemonic.gets, .geth, .getl, .getbit], ∃ r : Request,
        asmLine cfg ⟨.command m, [.decimal n]⟩ = .ok [r]
        ∧ decodeRequest r = .ok (m.instr (BitVec.ofNat 6 n) 0) ∧ r.wdata = 0)
    ∧ (∀ m ∈ [Mnemonic.clear, .decode, .valid, .missing, .humid, .temp, .rawtemp, .parity, .status], ∃ r : Request,
        asmLine cfg ⟨.command m, []⟩ = .ok [r] ∧ decodeRequest r = .ok (m.instr 0 0) ∧ r.wdata = 0)
    ∧ (63 < n → ∀ m ∈ [Mnemonic.gets, .geth, .getl, .getbit],
        asmLine cfg ⟨.command m, [.decimal n]⟩ = .error .badIndex)
    ∧ (63 < n → ∀ m ∈ [Mnemonic.sets, .seth, .setl], ∀ x : AsmNumber,
        asmLine cfg ⟨.command m, [.decimal n, x]⟩ = .error .badIndex)
    ∧ (n ≤ 63 → 2 ^ cfg.durWidth ≤ v → ∀ m ∈ [Mnemonic.sets, .seth, .setl],
        asmLine cfg ⟨.command m, [.decimal n, .decimal v]⟩ = .error .valueTooLarge
        ∧ asmLine cfg ⟨.command m, [.decimal n, .hex v]⟩ = .error .valueTooLarge)
    ∧ (∀ m ∈ [Mnemonic.sets, .seth, .setl], asmLine cfg ⟨.command m, []⟩ = .error .wrongOperands
        ∧ ∀ x : AsmNumber, asmLine cfg ⟨.command m, [x]⟩ = .error .wrongOperands)
    ∧ (∀ m ∈ [Mnemonic.gets, .geth, .getl, .getbit], asmLine cfg ⟨.command m, []⟩ = .error .wrongOperands)

/-- R43: the pseudo-instructions are their expansions. -/
def Obligations.PseudoInstructionsExpand : Prop :=
  ∀ (cfg : Config) (a b c : AsmNumber) (x y z : Request),
    (asmLine cfg ⟨.command .seth, [a, b]⟩ = .ok [x] → asmLine cfg ⟨.command .setl, [a, c]⟩ = .ok [y] →
      asmLine cfg ⟨.capbit, [a, b, c]⟩ = .ok [x, y])
    ∧ (asmLine cfg ⟨.command .sets, [.decimal 0, a]⟩ = .ok [x] →
        asmLine cfg ⟨.command .sets, [.decimal 1, b]⟩ = .ok [y] →
        asmLine cfg ⟨.command .sets, [.decimal 2, c]⟩ = .ok [z] →
        asmLine cfg ⟨.loadstart, [a, b, c]⟩ = .ok [x, y, z])
    ∧ asmLine cfg ⟨.newframe, []⟩ = .ok [⟨0x3800, 0⟩]
end

