-- ==== Sys2Proof/Laws/Decode.lean ====
section
/-!
SUPPORT. What the decoder's parts are: the fields of a command word, the row of an OP, the rows.
-/

namespace Sys2Proof

/-- Every row is in the list of rows. -/
theorem Mnemonic.mem_all (m : Mnemonic) : m ∈ Mnemonic.all := by cases m <;> decide

/-- A command's row, given the operands it was made with. -/
@[simp] theorem Mnemonic.instr_mnemonic (m : Mnemonic) (idx : Idx) (v : Word) : (m.instr idx v).mnemonic = m := by
  cases m <;> rfl

/-- The row of an OP is the one row with that OP (R38). -/
theorem rowOf_eq_some_iff (op : BitVec 5) (m : Mnemonic) : rowOf op = some m ↔ m.op = op := by
  constructor
  · intro h
    simpa using List.find?_some h
  · rintro rfl
    cases m <;> decide

@[simp] theorem rowOf_op (m : Mnemonic) : rowOf m.op = some m := (rowOf_eq_some_iff _ _).2 rfl

/-- A command word built from its fields, as a number (R34). -/
theorem append_toNat (op rsv : BitVec 5) (idx : Idx) :
    (op ++ rsv ++ idx).toNat = 2048 * op.toNat + 64 * rsv.toNat + idx.toNat := by
  rw [BitVec.toNat_append, BitVec.toNat_append, ← Nat.shiftLeft_add_eq_or_of_lt rsv.isLt,
    ← Nat.shiftLeft_add_eq_or_of_lt idx.isLt, Nat.shiftLeft_eq, Nat.shiftLeft_eq]
  omega

/-- The fields of a command word as numbers (R34). -/
theorem opField_toNat (c : Cmd) : (opField c).toNat = c.toNat / 2048 := by
  have := c.isLt
  simp only [opField, BitVec.extractLsb'_toNat, Nat.shiftRight_eq_div_pow]
  omega

theorem rsvField_toNat (c : Cmd) : (rsvField c).toNat = c.toNat / 64 % 32 := by
  simp [rsvField, Nat.shiftRight_eq_div_pow]

theorem idxField_toNat (c : Cmd) : (idxField c).toNat = c.toNat % 64 := by
  simp [idxField]

/-- The three fields of a command word built from them (R34). -/
@[simp] theorem opField_append (op rsv : BitVec 5) (idx : Idx) : opField (op ++ rsv ++ idx) = op := by
  apply BitVec.eq_of_toNat_eq
  rw [opField_toNat, append_toNat]
  omega

@[simp] theorem rsvField_append (op rsv : BitVec 5) (idx : Idx) : rsvField (op ++ rsv ++ idx) = rsv := by
  apply BitVec.eq_of_toNat_eq
  rw [rsvField_toNat, append_toNat]
  omega

@[simp] theorem idxField_append (op rsv : BitVec 5) (idx : Idx) : idxField (op ++ rsv ++ idx) = idx := by
  apply BitVec.eq_of_toNat_eq
  rw [idxField_toNat, append_toNat]
  omega

/-- The word of its fields is the word itself. -/
theorem append_fields (c : Cmd) : opField c ++ rsvField c ++ idxField c = c := by
  apply BitVec.eq_of_toNat_eq
  rw [append_toNat, opField_toNat, rsvField_toNat, idxField_toNat]
  omega

/-- When a request decodes (R38, R39). -/
theorem decodeRequest_eq_ok_iff (r : Request) (i : Instr) :
    decodeRequest r = .ok i ↔
      ∃ m : Mnemonic, m.op = opField r.cmd ∧ rsvField r.cmd = 0#5 ∧ (m.indexed = true ∨ idxField r.cmd = 0#6)
        ∧ i = m.instr (idxField r.cmd) r.wdata := by
  unfold decodeRequest
  cases hrow : rowOf (opField r.cmd) with
  | none =>
    simp only [reduceCtorEq, false_iff, not_exists]
    rintro m ⟨hop, -⟩
    rw [(rowOf_eq_some_iff _ _).2 hop] at hrow
    cases hrow
  | some m =>
    have hop := (rowOf_eq_some_iff _ _).1 hrow
    dsimp only
    have only : ∀ m' : Mnemonic, m'.op = opField r.cmd → m' = m := by
      intro m' h'
      have := (rowOf_eq_some_iff _ _).2 h'
      rw [hrow] at this
      exact (Option.some.inj this).symm
    split_ifs with h1 h2
    · simp only [false_iff, not_exists]
      rintro m' ⟨-, h, -⟩
      exact h1 h
    · simp only [false_iff, not_exists]
      rintro m' ⟨h', -, h, -⟩
      obtain rfl := only m' h'
      rcases h with h | h
      · simp [h2.1] at h
      · exact h2.2 h
    · constructor
      · intro h
        refine ⟨m, hop, not_not.1 h1, ?_, (Except.ok.inj h).symm⟩
        by_contra hc
        rw [not_or] at hc
        exact h2 ⟨by simpa using hc.1, hc.2⟩
      · rintro ⟨m', h', -, -, rfl⟩
        rw [only m' h']

end Sys2Proof
end

