-- ==== Sys2Proof/Laws/State.lean ====
section
/-!
SUPPORT. One lemma per field per update, each true by unfolding, so that no later proof unfolds a record update.
-/

namespace Sys2Proof.Machine

/-! `writeStart` writes `start` alone (spec/10_state.md R8, R12). -/

@[simp] theorem writeStart_start (b : Block) (i : Nat) (v : Duration) : (writeStart b i v).start =
    b.start.setIfInBounds i v := rfl
@[simp] theorem writeStart_high (b : Block) (i : Nat) (v : Duration) : (writeStart b i v).high = b.high := rfl
@[simp] theorem writeStart_low (b : Block) (i : Nat) (v : Duration) : (writeStart b i v).low = b.low := rfl
@[simp] theorem writeStart_resBit (b : Block) (i : Nat) (v : Duration) : (writeStart b i v).resBit = b.resBit := rfl
@[simp] theorem writeStart_resMissing (b : Block) (i : Nat) (v : Duration) : (writeStart b i v).resMissing =
    b.resMissing := rfl
@[simp] theorem writeStart_resHum (b : Block) (i : Nat) (v : Duration) : (writeStart b i v).resHum = b.resHum := rfl
@[simp] theorem writeStart_resTemp (b : Block) (i : Nat) (v : Duration) : (writeStart b i v).resTemp =
    b.resTemp := rfl
@[simp] theorem writeStart_resParity (b : Block) (i : Nat) (v : Duration) : (writeStart b i v).resParity =
    b.resParity := rfl
@[simp] theorem writeStart_resValid (b : Block) (i : Nat) (v : Duration) : (writeStart b i v).resValid =
    b.resValid := rfl
@[simp] theorem writeStart_phase (b : Block) (i : Nat) (v : Duration) : (writeStart b i v).phase = b.phase := rfl
@[simp] theorem writeStart_faulted (b : Block) (i : Nat) (v : Duration) : (writeStart b i v).faulted =
    b.faulted := rfl
@[simp] theorem writeStart_cause (b : Block) (i : Nat) (v : Duration) : (writeStart b i v).cause = b.cause := rfl

/-! `writeHigh` writes `high` alone. -/

@[simp] theorem writeHigh_start (b : Block) (i : Nat) (v : Duration) : (writeHigh b i v).start = b.start := rfl
@[simp] theorem writeHigh_high (b : Block) (i : Nat) (v : Duration) : (writeHigh b i v).high =
    b.high.setIfInBounds i v := rfl
@[simp] theorem writeHigh_low (b : Block) (i : Nat) (v : Duration) : (writeHigh b i v).low = b.low := rfl
@[simp] theorem writeHigh_resBit (b : Block) (i : Nat) (v : Duration) : (writeHigh b i v).resBit = b.resBit := rfl
@[simp] theorem writeHigh_resMissing (b : Block) (i : Nat) (v : Duration) : (writeHigh b i v).resMissing =
    b.resMissing := rfl
@[simp] theorem writeHigh_resHum (b : Block) (i : Nat) (v : Duration) : (writeHigh b i v).resHum = b.resHum := rfl
@[simp] theorem writeHigh_resTemp (b : Block) (i : Nat) (v : Duration) : (writeHigh b i v).resTemp = b.resTemp := rfl
@[simp] theorem writeHigh_resParity (b : Block) (i : Nat) (v : Duration) : (writeHigh b i v).resParity =
    b.resParity := rfl
@[simp] theorem writeHigh_resValid (b : Block) (i : Nat) (v : Duration) : (writeHigh b i v).resValid =
    b.resValid := rfl
@[simp] theorem writeHigh_phase (b : Block) (i : Nat) (v : Duration) : (writeHigh b i v).phase = b.phase := rfl
@[simp] theorem writeHigh_faulted (b : Block) (i : Nat) (v : Duration) : (writeHigh b i v).faulted = b.faulted := rfl
@[simp] theorem writeHigh_cause (b : Block) (i : Nat) (v : Duration) : (writeHigh b i v).cause = b.cause := rfl

/-! `writeLow` writes `low` alone. -/

@[simp] theorem writeLow_start (b : Block) (i : Nat) (v : Duration) : (writeLow b i v).start = b.start := rfl
@[simp] theorem writeLow_high (b : Block) (i : Nat) (v : Duration) : (writeLow b i v).high = b.high := rfl
@[simp] theorem writeLow_low (b : Block) (i : Nat) (v : Duration) : (writeLow b i v).low =
    b.low.setIfInBounds i v := rfl
@[simp] theorem writeLow_resBit (b : Block) (i : Nat) (v : Duration) : (writeLow b i v).resBit = b.resBit := rfl
@[simp] theorem writeLow_resMissing (b : Block) (i : Nat) (v : Duration) : (writeLow b i v).resMissing =
    b.resMissing := rfl
@[simp] theorem writeLow_resHum (b : Block) (i : Nat) (v : Duration) : (writeLow b i v).resHum = b.resHum := rfl
@[simp] theorem writeLow_resTemp (b : Block) (i : Nat) (v : Duration) : (writeLow b i v).resTemp = b.resTemp := rfl
@[simp] theorem writeLow_resParity (b : Block) (i : Nat) (v : Duration) : (writeLow b i v).resParity =
    b.resParity := rfl
@[simp] theorem writeLow_resValid (b : Block) (i : Nat) (v : Duration) : (writeLow b i v).resValid = b.resValid := rfl
@[simp] theorem writeLow_phase (b : Block) (i : Nat) (v : Duration) : (writeLow b i v).phase = b.phase := rfl
@[simp] theorem writeLow_faulted (b : Block) (i : Nat) (v : Duration) : (writeLow b i v).faulted = b.faulted := rfl
@[simp] theorem writeLow_cause (b : Block) (i : Nat) (v : Duration) : (writeLow b i v).cause = b.cause := rfl

/-! `faultEntry` writes FAULTED and CAUSE alone (spec/60_exceptions.md R77). -/

@[simp] theorem faultEntry_start (b : Block) (c : Cause) : (faultEntry b c).start = b.start := rfl
@[simp] theorem faultEntry_high (b : Block) (c : Cause) : (faultEntry b c).high = b.high := rfl
@[simp] theorem faultEntry_low (b : Block) (c : Cause) : (faultEntry b c).low = b.low := rfl
@[simp] theorem faultEntry_resBit (b : Block) (c : Cause) : (faultEntry b c).resBit = b.resBit := rfl
@[simp] theorem faultEntry_resMissing (b : Block) (c : Cause) : (faultEntry b c).resMissing = b.resMissing := rfl
@[simp] theorem faultEntry_resHum (b : Block) (c : Cause) : (faultEntry b c).resHum = b.resHum := rfl
@[simp] theorem faultEntry_resTemp (b : Block) (c : Cause) : (faultEntry b c).resTemp = b.resTemp := rfl
@[simp] theorem faultEntry_resParity (b : Block) (c : Cause) : (faultEntry b c).resParity = b.resParity := rfl
@[simp] theorem faultEntry_resValid (b : Block) (c : Cause) : (faultEntry b c).resValid = b.resValid := rfl
@[simp] theorem faultEntry_phase (b : Block) (c : Cause) : (faultEntry b c).phase = b.phase := rfl
@[simp] theorem faultEntry_faulted (b : Block) (c : Cause) : (faultEntry b c).faulted = true := rfl
@[simp] theorem faultEntry_cause (b : Block) (c : Cause) : (faultEntry b c).cause = c.code := rfl

/-! CLEAR writes everything but the fault register (spec/40_buffer_access.md R44). -/

@[simp] theorem clearEffect_start (b : Block) : (clearEffect b).1.start = Vector.replicate 3 0#32 := rfl
@[simp] theorem clearEffect_high (b : Block) : (clearEffect b).1.high = Vector.replicate 40 0#32 := rfl
@[simp] theorem clearEffect_low (b : Block) : (clearEffect b).1.low = Vector.replicate 40 0#32 := rfl
@[simp] theorem clearEffect_resBit (b : Block) : (clearEffect b).1.resBit = Vector.replicate 40 false := rfl
@[simp] theorem clearEffect_resMissing (b : Block) : (clearEffect b).1.resMissing = 0#6 := rfl
@[simp] theorem clearEffect_resHum (b : Block) : (clearEffect b).1.resHum = 0#16 := rfl
@[simp] theorem clearEffect_resTemp (b : Block) : (clearEffect b).1.resTemp = 0#16 := rfl
@[simp] theorem clearEffect_resParity (b : Block) : (clearEffect b).1.resParity = 0#8 := rfl
@[simp] theorem clearEffect_resValid (b : Block) : (clearEffect b).1.resValid = false := rfl
@[simp] theorem clearEffect_phase (b : Block) : (clearEffect b).1.phase = .capture := rfl
@[simp] theorem clearEffect_faulted (b : Block) : (clearEffect b).1.faulted = b.faulted := rfl
@[simp] theorem clearEffect_cause (b : Block) : (clearEffect b).1.cause = b.cause := rfl

/-! `latchFrame` writes the result registers and PHASE alone (spec/41_decode.md R63). -/

@[simp] theorem latchFrame_start (cfg : Config) (b : Block) : (latchFrame cfg b).start = b.start := by
  simp only [latchFrame]
@[simp] theorem latchFrame_high (cfg : Config) (b : Block) : (latchFrame cfg b).high = b.high := by
  simp only [latchFrame]
@[simp] theorem latchFrame_low (cfg : Config) (b : Block) : (latchFrame cfg b).low = b.low := by
  simp only [latchFrame]
@[simp] theorem latchFrame_resBit (cfg : Config) (b : Block) : (latchFrame cfg b).resBit = decodedBits cfg b := by
  simp only [latchFrame]
@[simp] theorem latchFrame_resMissing (cfg : Config) (b : Block) : (latchFrame cfg b).resMissing =
    BitVec.ofNat 6 (missingCount cfg b) := by
  simp only [latchFrame]
@[simp] theorem latchFrame_resHum (cfg : Config) (b : Block) : (latchFrame cfg b).resHum =
    humidityField (decodedBits cfg b) := by
  simp only [latchFrame]
@[simp] theorem latchFrame_resTemp (cfg : Config) (b : Block) : (latchFrame cfg b).resTemp =
    temperatureField (decodedBits cfg b) := by
  simp only [latchFrame]
@[simp] theorem latchFrame_resParity (cfg : Config) (b : Block) : (latchFrame cfg b).resParity =
    parityField (decodedBits cfg b) := by
  simp only [latchFrame]
@[simp] theorem latchFrame_resValid (cfg : Config) (b : Block) : (latchFrame cfg b).resValid =
    verdict (missingCount cfg b) (humidityField (decodedBits cfg b)) (temperatureField (decodedBits cfg b))
      (parityField (decodedBits cfg b)) := by
  simp only [latchFrame]
@[simp] theorem latchFrame_phase (cfg : Config) (b : Block) : (latchFrame cfg b).phase = .decoded := by
  simp only [latchFrame]
@[simp] theorem latchFrame_faulted (cfg : Config) (b : Block) : (latchFrame cfg b).faulted = b.faulted := by
  simp only [latchFrame]
@[simp] theorem latchFrame_cause (cfg : Config) (b : Block) : (latchFrame cfg b).cause = b.cause := by
  simp only [latchFrame]

/-! A rejected request changes the response alone (spec/60_exceptions.md R78). -/

@[simp] theorem reject_block (s : State) : (s.reject).block = s.block := rfl
@[simp] theorem reject_script (s : State) : (s.reject).script = s.script := rfl
@[simp] theorem reject_response (s : State) : (s.reject).response = some ⟨false, 0#32⟩ := rfl

/-! A fault enters the fault state. -/

@[simp] theorem takeFault_block (s : State) (c : Cause) : (s.takeFault c).block = faultEntry s.block c := rfl
@[simp] theorem takeFault_script (s : State) (c : Cause) : (s.takeFault c).script = s.script := rfl
@[simp] theorem takeFault_response (s : State) (c : Cause) : (s.takeFault c).response = some ⟨false, 0#32⟩ := rfl

/-! An admitted request has its command's effect. -/

@[simp] theorem complete_block (s : State) (e : Block → Block × Word) : (s.complete e).block = (e s.block).1 := rfl
@[simp] theorem complete_script (s : State) (e : Block → Block × Word) : (s.complete e).script = s.script := rfl
@[simp] theorem complete_response (s : State) (e : Block → Block × Word) : (s.complete e).response =
    some ⟨true, (e s.block).2⟩ := rfl

/-! The reset event (spec/70_reset_and_hazards.md R86). -/

@[simp] theorem resetBlock_block (s : State) : (s.resetBlock).block = Block.reset := rfl
@[simp] theorem resetBlock_script (s : State) : (s.resetBlock).script = s.script := rfl
@[simp] theorem resetBlock_response (s : State) : (s.resetBlock).response = none := rfl

/-! Placing a request changes the script alone. -/

@[simp] theorem withRequest_block (s : State) (r : Request) : (s.withRequest r).block = s.block := rfl
@[simp] theorem withRequest_script (s : State) (r : Request) : (s.withRequest r).script =
    .request r :: s.script := rfl
@[simp] theorem withRequest_response (s : State) (r : Request) : (s.withRequest r).response = s.response := rfl

/-! The claims' name for a fault. -/

@[simp] theorem faultedWith_block (s : State) (c : BitVec 4) : (s.faultedWith c).block =
    { s.block with faulted := true, cause := c } := rfl
@[simp] theorem faultedWith_script (s : State) (c : BitVec 4) : (s.faultedWith c).script = s.script := rfl
@[simp] theorem faultedWith_response (s : State) (c : BitVec 4) : (s.faultedWith c).response = some ⟨false, 0#32⟩ := rfl

/-! The claims' name for a performed read. -/

@[simp] theorem answers_block (s : State) (w : Word) : (s.answers w).block = s.block := rfl
@[simp] theorem answers_script (s : State) (w : Word) : (s.answers w).script = s.script := rfl
@[simp] theorem answers_response (s : State) (w : Word) : (s.answers w).response = some ⟨true, w⟩ := rfl

/-! The claims' name for a performed command without a result. -/

@[simp] theorem becomes_block (s : State) (b : Block) : (s.becomes b).block = b := rfl
@[simp] theorem becomes_script (s : State) (b : Block) : (s.becomes b).script = s.script := rfl
@[simp] theorem becomes_response (s : State) (b : Block) : (s.becomes b).response = some ⟨true, 0#32⟩ := rfl

end Sys2Proof.Machine
end

