-- ==== Sys2Proof/Laws/Frame.lean ====
section
/-!
SUPPORT. What the classifier, the assembler and `latchFrame` depend on, and when a block already holds its own frame.
-/

namespace Sys2Proof.Machine

/-- The decoded bits are a function of the two duration files DECODE reads (spec/41_decode.md R62, R64). -/
theorem decodedBits_congr (cfg : Config) (a b : Block) (hl : a.low = b.low) (hh : a.high = b.high) :
    decodedBits cfg a = decodedBits cfg b := by
  unfold decodedBits classes
  rw [hl, hh]

/-- So is the missing-bit count. -/
theorem missingCount_congr (cfg : Config) (a b : Block) (hl : a.low = b.low) (hh : a.high = b.high) :
    missingCount cfg a = missingCount cfg b := by
  unfold missingCount classes
  rw [hl, hh]

/-- The class of a position (R51, R52). -/
theorem classes_get (cfg : Config) (b : Block) (p : Nat) (h : p < 40) :
    (classes cfg b)[p] = classify cfg b.low[p] b.high[p] := by
  simp [classes]

/-- The bit of a position (R53). -/
theorem decodedBits_get (cfg : Config) (b : Block) (p : Nat) (h : p < 40) :
    (decodedBits cfg b)[p] = (classify cfg b.low[p] b.high[p] == .one) := by
  simp [decodedBits, classes]

/-- At most 40 bits are missing (R54). -/
theorem missingCount_le (cfg : Config) (b : Block) : missingCount cfg b ≤ 40 := by
  unfold missingCount
  exact List.countP_le_length.trans (by simp)

/-- Two blocks with the same fields are the same. -/
theorem block_ext (a b : Block) (h1 : a.start = b.start) (h2 : a.high = b.high) (h3 : a.low = b.low)
    (h4 : a.resBit = b.resBit) (h5 : a.resMissing = b.resMissing) (h6 : a.resHum = b.resHum)
    (h7 : a.resTemp = b.resTemp) (h8 : a.resParity = b.resParity) (h9 : a.resValid = b.resValid)
    (h10 : a.phase = b.phase) (h11 : a.faulted = b.faulted) (h12 : a.cause = b.cause) : a = b := by
  cases a
  cases b
  simp_all

/-- A block holds its own frame exactly when each result register is what DECODE would write (R63). -/
theorem latchFrame_eq_self_iff (cfg : Config) (b : Block) :
    latchFrame cfg b = b ↔
      (b.phase = .decoded ∧ b.resBit = decodedBits cfg b ∧ b.resMissing = BitVec.ofNat 6 (missingCount cfg b)
        ∧ b.resHum = humidityField (decodedBits cfg b) ∧ b.resTemp = temperatureField (decodedBits cfg b)
        ∧ b.resParity = parityField (decodedBits cfg b)
        ∧ b.resValid = verdict (missingCount cfg b) (humidityField (decodedBits cfg b))
            (temperatureField (decodedBits cfg b)) (parityField (decodedBits cfg b))) := by
  constructor
  · intro h
    refine ⟨?_, ?_, ?_, ?_, ?_, ?_, ?_⟩
    · rw [← latchFrame_phase cfg b, h]
    · rw [← latchFrame_resBit cfg b, h]
    · rw [← latchFrame_resMissing cfg b, h]
    · rw [← latchFrame_resHum cfg b, h]
    · rw [← latchFrame_resTemp cfg b, h]
    · rw [← latchFrame_resParity cfg b, h]
    · rw [← latchFrame_resValid cfg b, h]
  · rintro ⟨h1, h2, h3, h4, h5, h6, h7⟩
    apply block_ext <;>
      simp only [latchFrame_start, latchFrame_high, latchFrame_low, latchFrame_resBit, latchFrame_resMissing,
        latchFrame_resHum, latchFrame_resTemp, latchFrame_resParity, latchFrame_resValid, latchFrame_phase,
        latchFrame_faulted, latchFrame_cause, h1, h2, h3, h4, h5, h6, h7]

/-- The most-significant-first number of bits with one more at the end (R55). -/
theorem msbFirst_append (xs : List Bool) (x : Bool) : msbFirst (xs ++ [x]) = 2 * msbFirst xs + x.toNat := by
  simp [msbFirst]

end Sys2Proof.Machine
end

