-- ==== Sys2Proof/Laws/Operands.lean ====
section
/-!
SUPPORT. What the operand forms give: entries at a legal index, and the data word at the hardware's width.
-/

namespace Sys2Proof

/-- With the spec's `DUR_WIDTH`, 32, a data word is stored as it is (spec/30_encoding.md R37). -/
@[simp] theorem Config.clip_hw (v : Word) : Config.hw.clip v = v := by
  apply BitVec.eq_of_toNat_eq
  have := v.isLt
  simp only [Config.clip, Config.hw, BitVec.toNat_ofNat]
  omega

/-- A stored duration fits in `DUR_WIDTH` bits, at every configuration (spec/10_state.md R7, R8). -/
theorem Config.fits_clip (cfg : Config) (v : Word) : cfg.fits (cfg.clip v) = true := by
  have h : v.toNat % 2 ^ cfg.durWidth < 2 ^ cfg.durWidth := Nat.mod_lt _ (by positivity)
  have h' : v.toNat % 2 ^ cfg.durWidth ≤ v.toNat := Nat.mod_le _ _
  have := v.isLt
  simp only [Config.fits, Config.clip, BitVec.toNat_ofNat, decide_eq_true_eq]
  rw [Nat.mod_eq_of_lt (by omega)]
  exact h

/-- A data word that fits is stored unchanged (spec/30_encoding.md R37). -/
theorem Config.clip_of_fits (cfg : Config) (v : Word) (h : cfg.fits v = true) : cfg.clip v = v := by
  simp only [Config.fits, decide_eq_true_eq] at h
  simp [Config.clip, Nat.mod_eq_of_lt h]

namespace Machine

theorem readStart_of_lt (b : Block) (i : Nat) (h : i < 3) : readStart b i = b.start[i] := by simp [readStart, h]

theorem readHigh_of_lt (b : Block) (i : Nat) (h : i < 40) : readHigh b i = b.high[i] := by simp [readHigh, h]

theorem readLow_of_lt (b : Block) (i : Nat) (h : i < 40) : readLow b i = b.low[i] := by simp [readLow, h]

theorem readBit_of_lt (b : Block) (i : Nat) (h : i < 40) : readBit b i = b.resBit[i] := by simp [readBit, h]

/-- A duration is 32 bits wide in the model, so its zero extension is itself. -/
@[simp] theorem zext32_word (v : Word) : zext32 v = v := by simp [zext32]

end Machine

end Sys2Proof
end

