-- ==== Sys2Proof/Laws/Ops.lean ====
section
/-!
SUPPORT. What admission, serving a command and a step can do, said once.
-/

namespace Sys2Proof.Machine

/-- The conditions under which a legal command of a row is performed (spec/60_exceptions.md R76). -/
abbrev Admissible (m : Mnemonic) (idx : Idx) (b : Block) : Prop :=
  (∀ n, m.limit = some n → idx.toNat < n) ∧ (∀ p, m.needs = some p → b.phase = p)

/-- While faulted, only STATUS is admitted, and everything else is rejected (R78). -/
theorem admission_faulted (b : Block) (m : Mnemonic) (idx : Idx) (hf : b.faulted = true)
    (hi : m.indexed = true ∨ idx = 0#6) :
    admission b (some m) 0#5 idx = if m = .status then .admitted else .reject := by
  have hl : legalWord (some m) 0#5 idx = true := by
    rcases hi with h | h <;> simp [legalWord, h]
  simp only [admission, hf, hl, if_true, Bool.true_and]
  by_cases hm : m = .status <;> simp [hm]

/-- Unfaulted, a legal command faults for its index, then for the phase, or is admitted (R76). -/
theorem admission_unfaulted (b : Block) (m : Mnemonic) (idx : Idx) (hf : b.faulted = false)
    (hi : m.indexed = true ∨ idx = 0#6) :
    admission b (some m) 0#5 idx =
      if indexOut (some m) idx = true then .fault .outOfRange
      else if m.needs = some .capture ∧ b.phase = .decoded then .fault .writeAfterDecode
      else if m.needs = some .decoded ∧ b.phase = .capture then .fault .resultBeforeDecode
      else .admitted := by
  have hl : legalWord (some m) 0#5 idx = true := by
    rcases hi with h | h <;> simp [legalWord, h]
  simp [admission, hf, hl]

/-- A legal command that meets its row's conditions is admitted. -/
theorem admission_admissible (b : Block) (m : Mnemonic) (idx : Idx) (hf : b.faulted = false)
    (hi : m.indexed = true ∨ idx = 0#6) (ha : Admissible m idx b) : admission b (some m) 0#5 idx = .admitted := by
  rw [admission_unfaulted b m idx hf hi]
  have h1 : indexOut (some m) idx = false := by
    unfold indexOut
    cases hl : m.limit with
    | none   => simp [hl]
    | some n => simpa [hl] using ha.1 n hl
  rw [if_neg (by simp [h1]), if_neg, if_neg]
  · rintro ⟨hn, hp⟩
    simp [ha.2 _ hn] at hp
  · rintro ⟨hn, hp⟩
    simp [ha.2 _ hn] at hp

/-- Serving a command always answers a next state, and it is one of three: the request rejected, its fault taken, or its
effect performed, as admission decided (R42). -/
theorem serve_cases (m : Mnemonic) (idx : Idx) (effect : Block → Block × Word) (s t : State)
    (h : serve m idx effect s = .next t) :
    (admission s.block (some m) 0#5 idx = .reject ∧ t = s.reject)
    ∨ (∃ c, admission s.block (some m) 0#5 idx = .fault c ∧ t = s.takeFault c)
    ∨ (admission s.block (some m) 0#5 idx = .admitted ∧ t = s.complete effect) := by
  simp only [serve, Host.Outcome.next.injEq] at h
  subst h
  cases hv : admission s.block (some m) 0#5 idx with
  | admitted => exact .inr (.inr ⟨rfl, by simp [answer]⟩)
  | reject   => exact .inl ⟨rfl, by simp [answer]⟩
  | fault c  => exact .inr (.inl ⟨c, rfl, by simp [answer]⟩)

/-- A command that is admitted has its effect. -/
theorem serve_admitted (m : Mnemonic) (idx : Idx) (effect : Block → Block × Word) (s : State)
    (h : admission s.block (some m) 0#5 idx = .admitted) : serve m idx effect s = .next (s.complete effect) := by
  simp [serve, answer, h]

/-- A command that faults enters the fault state. -/
theorem serve_fault (m : Mnemonic) (idx : Idx) (effect : Block → Block × Word) (s : State) (c : Cause)
    (h : admission s.block (some m) 0#5 idx = .fault c) : serve m idx effect s = .next (s.takeFault c) := by
  simp [serve, answer, h]

/-- A command that is rejected changes nothing. -/
theorem serve_reject (m : Mnemonic) (idx : Idx) (effect : Block → Block × Word) (s : State)
    (h : admission s.block (some m) 0#5 idx = .reject) : serve m idx effect s = .next s.reject := by
  simp [serve, answer, h]

/-- The claims' name for a fault is the machine's. -/
theorem takeFault_eq_faultedWith (s : State) (c : Cause) : s.takeFault c = s.faultedWith c.code := rfl

/-- Every meaning is `serve` of its row and its effect (R42). -/
theorem exec_eq_serve (i : Instr) (s : State) :
    exec i s = serve i.mnemonic i.idx (perform Config.hw i.mnemonic i.idx i.wdata) s := by
  cases i <;> rfl

/-- The operands of a command agree with its row: a row without an index has IDX 0. -/
theorem indexed_or_idx_zero (i : Instr) : i.mnemonic.indexed = true ∨ i.idx = 0#6 := by
  cases i <;> simp [Instr.mnemonic, Instr.idx, Mnemonic.indexed]

/-- A faulted block rejects every command but STATUS (R78). -/
theorem exec_of_faulted (i : Instr) (s : State) (hf : s.block.faulted = true) (hi : i.mnemonic ≠ .status) :
    exec i s = .next s.reject := by
  rw [exec_eq_serve]
  apply serve_reject
  rw [admission_faulted _ _ _ hf (indexed_or_idx_zero i), if_neg hi]

/-- A command that meets its row's conditions has its effect (R42, R76). -/
theorem exec_of_admissible (i : Instr) (s : State) (hf : s.block.faulted = false)
    (ha : Admissible i.mnemonic i.idx s.block) :
    exec i s = .next (s.complete (perform Config.hw i.mnemonic i.idx i.wdata)) := by
  rw [exec_eq_serve]
  exact serve_admitted _ _ _ _ (admission_admissible _ _ _ hf (indexed_or_idx_zero i) ha)

/-- An index outside the space faults, whatever the phase (R75, R76). -/
theorem exec_of_indexOut (i : Instr) (s : State) (hf : s.block.faulted = false)
    (ho : indexOut (some i.mnemonic) i.idx = true) : exec i s = .next (s.takeFault .outOfRange) := by
  rw [exec_eq_serve]
  apply serve_fault
  rw [admission_unfaulted _ _ _ hf (indexed_or_idx_zero i), if_pos ho]

/-- The host's next event, by what stands at the head of its script. -/
@[simp] theorem nextEvent_withRequest (s : State) (r : Request) : nextEvent (s.withRequest r) = .request r s := rfl

/-- A step on a request whose word decodes runs the command. -/
theorem step_withRequest_ok (s : State) (r : Request) (i : Instr) (h : decodeRequest r = .ok i) :
    step (s.withRequest r) = exec i s := by
  simp [step, h]

/-- A step on a request whose word is illegal. -/
theorem step_withRequest_error (s : State) (r : Request) (e : DecodeError) (h : decodeRequest r = .error e) :
    step (s.withRequest r) = serveIllegal s := by
  simp [step, h]

/-- What a step can do: wait, reset the block, run a command, or take an illegal word. -/
theorem step_cases (s t : State) (h : step s = .next t) :
    (s.script = [] ∧ t = s)
    ∨ (∃ rest, s.script = .reset :: rest ∧ t = { block := Block.reset, script := rest, response := none })
    ∨ (∃ r rest i, s.script = .request r :: rest ∧ decodeRequest r = .ok i
        ∧ exec i { s with script := rest } = .next t)
    ∨ (∃ r rest e, s.script = .request r :: rest ∧ decodeRequest r = .error e
        ∧ serveIllegal { s with script := rest } = .next t) := by
  unfold step nextEvent at h
  rcases hs : s.script with _ | ⟨_ | _, rest⟩
  · simp only [hs, Host.Outcome.next.injEq] at h
    exact .inl ⟨rfl, h.symm⟩
  · rename_i r
    simp only [hs] at h
    cases hd : decodeRequest r with
    | ok i    => simp only [hd] at h; exact .inr (.inr (.inl ⟨r, rest, i, rfl, hd, h⟩))
    | error e => simp only [hd] at h; exact .inr (.inr (.inr ⟨r, rest, e, rfl, hd, h⟩))
  · simp only [hs, Host.Outcome.next.injEq] at h
    exact .inr (.inl ⟨rest, rfl, h.symm⟩)

end Sys2Proof.Machine
end

