-- ==== Sys2Proof/Laws/PerInstr.lean ====
section
/-!
SUPPORT. One lemma per constructor of `Instr`: the fields of a command's word are its row's OP, five zero bits and its IDX
(spec/30_encoding.md R34, R38).
-/

namespace Sys2Proof.Laws.EncodedFields

/-- The encoding of a command has its row's OP, RSV = 0, its index, and its data word. -/
def Statement (i : Instr) : Prop :=
  opField (encode i).cmd = i.mnemonic.op ∧ rsvField (encode i).cmd = 0#5 ∧ idxField (encode i).cmd = i.idx
    ∧ (encode i).wdata = i.wdata

/-- The one proof behind every case: the fields of a word built from fields. -/
theorem statement_of_fields (i : Instr) : Statement i :=
  ⟨opField_append _ _ _, rsvField_append _ _ _, idxField_append _ _ _, rfl⟩

theorem sets (idx : Idx) (wdata : Word) : Statement (.sets idx wdata) := statement_of_fields _
theorem gets (idx : Idx) : Statement (.gets idx) := statement_of_fields _
theorem seth (idx : Idx) (wdata : Word) : Statement (.seth idx wdata) := statement_of_fields _
theorem geth (idx : Idx) : Statement (.geth idx) := statement_of_fields _
theorem setl (idx : Idx) (wdata : Word) : Statement (.setl idx wdata) := statement_of_fields _
theorem getl (idx : Idx) : Statement (.getl idx) := statement_of_fields _
theorem clear : Statement .clear := statement_of_fields _
theorem decode : Statement .decode := statement_of_fields _
theorem valid : Statement .valid := statement_of_fields _
theorem missing : Statement .missing := statement_of_fields _
theorem getbit (idx : Idx) : Statement (.getbit idx) := statement_of_fields _
theorem humid : Statement .humid := statement_of_fields _
theorem temp : Statement .temp := statement_of_fields _
theorem rawtemp : Statement .rawtemp := statement_of_fields _
theorem parity : Statement .parity := statement_of_fields _
theorem status : Statement .status := statement_of_fields _

end Sys2Proof.Laws.EncodedFields
end

