-- ==== Sys2Proof/Tests/Slice0.lean ====
section
/-!
SUPPORT. Tests of single steps with the spec's own vectors as expected results (spec/95_test_vectors.md), the smoke tests
of `WellFormed`, one word per row written out from spec/opcode_table.json, and a witness for every statement that has
hypotheses.
-/

namespace Sys2Proof.Tests

open Sys2Proof Sys2Proof.Machine

/-! ### Helpers -/

/-- The next state of an outcome. -/
def nextOf (o : Host.Outcome State Fault Refusal) : Option State :=
  match o with
  | .next s    => some s
  | .fault _   => none
  | .refused _ => none

/-- The response of the step that performs this request. -/
def responseTo (s : State) (cmd : Cmd) (wdata : Word) : Option Response :=
  (nextOf (step (s.withRequest ⟨cmd, wdata⟩))).bind State.response

/-- What a projection of the block is after this request. -/
def blockAfter {α : Type} (s : State) (cmd : Cmd) (wdata : Word) (f : Block → α) : Option α :=
  (nextOf (step (s.withRequest ⟨cmd, wdata⟩))).map fun t => f t.block

/-- FAULTED and CAUSE. -/
def faultRegister (b : Block) : Bool × BitVec 4 := (b.faulted, b.cause)

/-- The buffer of section 3.3: 26 for a 0 bit and 73 for a 1 bit of the five bytes, most significant bit first. -/
def bufferOf (bytes : List Nat) : Block :=
  { Block.reset with
    low := Vector.ofFn fun p => if (bytes[p.val / 8]?.getD 0).testBit (7 - p.val % 8) then 73#32 else 26#32 }

/-- The machine with this block, nothing pending. -/
def stateOf (b : Block) : State := ⟨b, [], none⟩

/-- The machine after DECODE of the bytes. -/
def decodedOf (bytes : List Nat) : State := stateOf (latchFrame Config.hw (bufferOf bytes))

/-- The machine after DECODE of a fresh buffer. -/
def decodedFresh : State := stateOf { Block.reset with phase := .decoded, resMissing := 40#6 }

/-- A machine that has faulted with this cause. -/
def faultedState (cause : BitVec 4) (phase : Phase) : State :=
  stateOf { Block.reset with faulted := true, cause := cause, phase := phase }

/-! ### Well-formedness: each check refuses an ill-formed term -/

theorem test_hw_configuration_is_well_formed : Config.hw.wf = true := by decide

theorem test_width_zero_is_refused : Config.widthOk { Config.hw with durWidth := 0 } = false := by decide
theorem test_width_above_32_is_refused : Config.widthOk { Config.hw with durWidth := 33 } = false := by decide
theorem test_empty_short_window_is_refused : Config.shortOk { Config.hw with shortMin := 31 } = false := by decide
theorem test_touching_windows_are_refused : Config.apartOk { Config.hw with longMin := 30 } = false := by decide
theorem test_empty_long_window_is_refused : Config.longOk { Config.hw with longMax := 64 } = false := by decide
theorem test_long_window_beyond_the_width_is_refused : Config.longOk { Config.hw with durWidth := 6 } = false := by decide
theorem test_narrow_reference_window_is_refused :
    Config.refOk { Config.hw with refWindow := some (40, 60) } = false := by decide
theorem test_wide_reference_window_is_well_formed :
    Config.wf { Config.hw with refWindow := some (50, 70) } = true := by decide
theorem test_windows_without_the_example_are_seen :
    Config.admitsWorkedExample { Config.hw with shortMin := 26 } = false := by decide
theorem test_data_word_too_wide_is_refused :
    (Instr.setl 7 256).wellFormed { Config.hw with durWidth := 8 } = false := by decide
theorem test_data_word_that_fits_is_well_formed :
    (Instr.setl 7 255).wellFormed { Config.hw with durWidth := 8 } = true := by decide

/-! ### Decoding: one word a row, bit by bit from the encoding column -/

theorem test_decode_sets : decodeRequest ⟨0b0000100000000010#16, 82⟩ = .ok (.sets 2 82) := rfl
theorem test_decode_gets : decodeRequest ⟨0b0001000000000011#16, 9⟩ = .ok (.gets 3) := rfl
theorem test_decode_seth : decodeRequest ⟨0b0001100000101000#16, 54⟩ = .ok (.seth 40 54) := rfl
theorem test_decode_geth : decodeRequest ⟨0b0010000000100111#16, 9⟩ = .ok (.geth 39) := rfl
theorem test_decode_setl : decodeRequest ⟨0b0010100000000111#16, 73⟩ = .ok (.setl 7 73) := rfl
theorem test_decode_getl : decodeRequest ⟨0b0011000000111111#16, 9⟩ = .ok (.getl 63) := rfl
theorem test_decode_clear : decodeRequest ⟨0b0011100000000000#16, 9⟩ = .ok .clear := rfl
theorem test_decode_decode : decodeRequest ⟨0b0100000000000000#16, 9⟩ = .ok .decode := rfl
theorem test_decode_valid : decodeRequest ⟨0b0100100000000000#16, 9⟩ = .ok .valid := rfl
theorem test_decode_missing : decodeRequest ⟨0b0101000000000000#16, 9⟩ = .ok .missing := rfl
theorem test_decode_getbit : decodeRequest ⟨0b0101100000000101#16, 9⟩ = .ok (.getbit 5) := rfl
theorem test_decode_humid : decodeRequest ⟨0b0110000000000000#16, 9⟩ = .ok .humid := rfl
theorem test_decode_temp : decodeRequest ⟨0b0110100000000000#16, 9⟩ = .ok .temp := rfl
theorem test_decode_rawtemp : decodeRequest ⟨0b0111000000000000#16, 9⟩ = .ok .rawtemp := rfl
theorem test_decode_parity : decodeRequest ⟨0b0111100000000000#16, 9⟩ = .ok .parity := rfl
theorem test_decode_status : decodeRequest ⟨0b1000000000000000#16, 9⟩ = .ok .status := rfl

/-- R39: the all-zero word and OP 0x11..0x1F (vectors F1, F2, F3), RSV ≠ 0 (R10), IDX ≠ 0 without an index (F4). -/
theorem test_illegal_words_are_rejected_by_name :
    decodeRequest ⟨0x0000#16, 0⟩ = .error (.unassignedOp 0)
    ∧ decodeRequest ⟨0x8800#16, 0⟩ = .error (.unassignedOp 0x11)
    ∧ decodeRequest ⟨0xF800#16, 0⟩ = .error (.unassignedOp 0x1F)
    ∧ decodeRequest ⟨0x6040#16, 0⟩ = .error (.reservedNonzero 1)
    ∧ decodeRequest ⟨0x0FC3#16, 0⟩ = .error (.reservedNonzero 0x1F)
    ∧ decodeRequest ⟨0x4001#16, 0⟩ = .error (.indexNonzero 1) := ⟨rfl, rfl, rfl, rfl, rfl, rfl⟩

/-- The example of R43: `SETL 7, 73` is `cmd` = 0x2807, `wdata` = 0x49. -/
theorem test_encode_setl : encode (.setl 7 73) = ⟨0x2807#16, 0x49#32⟩ := by decide

/-! ### Buffer access (section 3.1) -/

/-- B2's write. -/
theorem test_sets_writes : blockAfter State.reset 0x0802 82 (fun b => b.start) = some #v[0, 0, 82] := by decide
/-- B10: a write after DECODE faults with cause 4. -/
theorem test_sets_after_decode : blockAfter decodedFresh 0x0800 22 faultRegister = some (true, 4) := by decide
/-- R46's example: `GETS 3` after reset. -/
theorem test_gets_out_of_range : blockAfter State.reset 0x1003 0 faultRegister = some (true, 1) := by decide
/-- The start durations of the worked example read back. -/
theorem test_gets_reads : responseTo (stateOf workedExample) 0x1001 0 = some ⟨true, 78⟩ := by decide
/-- B3: no truncation, last index. -/
theorem test_seth_writes_last :
    blockAfter State.reset 0x1827 0xFFFFFFFF (fun b => b.high[39]) = some 0xFFFFFFFF#32 := by decide
/-- B7: index 40. -/
theorem test_seth_out_of_range : blockAfter State.reset 0x1828 54 (fun b => (faultRegister b, b.high)) =
    some ((true, 1), Vector.replicate 40 0) := by decide
/-- Position 16's reference duration in the worked example. -/
theorem test_geth_reads : responseTo (stateOf workedExample) 0x2010 0 = some ⟨true, 68⟩ := by decide
/-- R48: index 40. -/
theorem test_geth_out_of_range : responseTo State.reset 0x2028 0 = some ⟨false, 0⟩ := by decide
/-- B4: the second write overwrites. -/
theorem test_setl_overwrites :
    blockAfter (stateOf (writeLow Block.reset 5 26)) 0x2805 73 (fun b => b.low[5]) = some 73#32 := by decide
/-- B13: the range test comes before the phase test. -/
theorem test_setl_range_before_phase : blockAfter decodedFresh 0x2828 26 faultRegister = some (true, 1) := by decide
/-- B11: reads are legal in DECODED. -/
theorem test_getl_reads_when_decoded : responseTo (decodedOf [1, 0x2F, 1, 0x2A, 0x5B]) 0x3007 0 = some ⟨true, 73⟩ := by
  decide
/-- B9: RSV = 1. -/
theorem test_getl_reserved_bits : blockAfter State.reset 0x3040 0 faultRegister = some (true, 2) := by decide
/-- B12: CLEAR after DECODE leaves the fresh buffer. -/
theorem test_clear_after_decode : blockAfter decodedFresh 0x3800 0 id = some Block.reset := by decide
/-- B14: CLEAR does not leave the fault state. -/
theorem test_clear_while_faulted :
    (responseTo (faultedState 1 .capture) 0x3800 0, blockAfter (faultedState 1 .capture) 0x3800 0 faultRegister)
      = (some ⟨false, 0⟩, some (true, 1)) := by decide

/-! ### Classifier, assembly, validation, DECODE (sections 1, 3.2, 3.3) -/

/-- The table of section 3.2. -/
theorem test_classifier_table :
    ([0, 19, 20, 25, 30, 31, 50, 64, 65, 73, 80, 81, 0xFFFFFFFF].map fun d => classify Config.hw d 0)
      = [.missing, .missing, .zero, .zero, .zero, .missing, .missing, .missing, .one, .one, .one, .missing,
         .missing] := by decide

/-- The reference check of section 3.2, `REF_WINDOW` = (40, 70). -/
theorem test_classifier_reference_window :
    classify { Config.hw with refWindow := some (40, 70) } 25 100 = .missing
    ∧ classify { Config.hw with refWindow := some (40, 70) } 25 60 = .zero
    ∧ classify { Config.hw with refWindow := some (40, 70) } 73 54 = .one := by decide

/-- Vectors V2 to V8 and V11: the verdict on RES_HUM, RES_TEMP and RES_PARITY, nothing missing. -/
theorem test_verdict_vectors :
    [verdict 0 0x03E8 0x03E8 0xD6, verdict 0 0x03E9 0x0000 0xEC, verdict 0 0x0000 0x81F4 0x75,
     verdict 0 0x0000 0x81F5 0x76, verdict 0 0x0000 0x03E9 0xEC, verdict 0 0x0000 0x8000 0x80,
     verdict 0 0xFFFF 0xFFFF 0xFC, verdict 0 0x012F 0x012A 0x5C]
      = [true, false, true, false, false, true, false, false] := by decide

/-- The known-good scenario (section 1): DECODE of the source's durations. -/
theorem test_decode_known_good :
    blockAfter (stateOf workedExample) 0x4000 0
      (fun b => (b.resValid, b.resMissing, b.resHum, b.resTemp, b.resParity, b.phase))
        = some (true, 0, 0x012F, 0x012A, 0x5B, .decoded) := by decide

/-- Vector V12: position 13 shifted outside both windows is one missing bit, read as 0. -/
theorem test_decode_corrupted_bit :
    blockAfter (stateOf (writeLow workedExample 13 50)) 0x4000 0
      (fun b => (b.resValid, b.resMissing, b.resHum, b.resTemp, b.resParity))
        = some (false, 1, 299, 0x012A, 0x5B) := by decide

/-! ### Result and status reads (section 3.4) -/

/-- V9: the all-short frame is valid. -/
theorem test_valid_reads : responseTo (decodedOf [0, 0, 0, 0, 0]) 0x4800 0 = some ⟨true, 1⟩ := by decide
/-- R1: a result read before DECODE faults with cause 3. -/
theorem test_valid_before_decode : blockAfter State.reset 0x4800 0 faultRegister = some (true, 3) := by decide
/-- P5: a fresh buffer has 40 missing bits. -/
theorem test_missing_reads : responseTo decodedFresh 0x5000 0 = some ⟨true, 40⟩ := by decide
/-- R67: IDX ≠ 0 is illegal. -/
theorem test_missing_with_index : blockAfter decodedFresh 0x5001 0 faultRegister = some (true, 2) := by decide
/-- R4: bits 7, 0 and 39 of the V1 frame. -/
theorem test_getbit_reads :
    ([0x5807, 0x5800, 0x5827].map fun c => responseTo (decodedOf [1, 0x2F, 1, 0x2A, 0x5B]) c 0)
      = [some ⟨true, 1⟩, some ⟨true, 0⟩, some ⟨true, 1⟩] := by decide
/-- R3: range before phase. -/
theorem test_getbit_range_before_phase : blockAfter State.reset 0x5828 0 faultRegister = some (true, 1) := by decide
/-- V8: an out-of-range humidity is returned unchanged. -/
theorem test_humid_reads : responseTo (decodedOf [0xFF, 0xFF, 0xFF, 0xFF, 0xFC]) 0x6000 0 = some ⟨true, 65535⟩ := by
  decide
/-- R10: RSV = 1. -/
theorem test_humid_reserved_bits : blockAfter State.reset 0x6040 0 faultRegister = some (true, 2) := by decide
/-- V4 and V8: −500 and −32767 tenths. -/
theorem test_temp_reads_negative :
    (responseTo (decodedOf [0, 0, 0x81, 0xF4, 0x75]) 0x6800 0,
      responseTo (decodedOf [0xFF, 0xFF, 0xFF, 0xFF, 0xFC]) 0x6800 0)
        = (some ⟨true, 0xFFFFFE0C⟩, some ⟨true, 0xFFFF8001⟩) := by decide
/-- V7, R11: negative zero reads 0. -/
theorem test_temp_negative_zero : responseTo (decodedOf [0, 0, 0x80, 0, 0x80]) 0x6800 0 = some ⟨true, 0⟩ := by decide
/-- R11: RAWTEMP shows the sign bit. -/
theorem test_rawtemp_reads : responseTo (decodedOf [0, 0, 0x80, 0, 0x80]) 0x7000 0 = some ⟨true, 0x8000⟩ := by decide
/-- V11: the received byte, not the computed sum. -/
theorem test_parity_reads : responseTo (decodedOf [1, 0x2F, 1, 0x2A, 0x5C]) 0x7800 0 = some ⟨true, 0x5C⟩ := by decide
/-- R5 to R8: the status word. -/
theorem test_status_reads :
    (responseTo State.reset 0x8000 0, responseTo decodedFresh 0x8000 0,
      responseTo (faultedState 1 .capture) 0x8000 0, responseTo (faultedState 4 .decoded) 0x8000 0)
        = (some ⟨true, 0⟩, some ⟨true, 1⟩, some ⟨true, 0x12⟩, some ⟨true, 0x43⟩) := by decide
/-- R9: an illegal STATUS form while faulted records no new cause. -/
theorem test_status_illegal_while_faulted :
    (responseTo (faultedState 1 .capture) 0x8001 0, blockAfter (faultedState 1 .capture) 0x8001 0 faultRegister)
      = (some ⟨false, 0⟩, some (true, 1)) := by decide

/-! ### Reset, waiting, illegal words -/

/-- F8: reset leaves the fault state; everything is at its reset value. -/
theorem test_reset_event :
    (nextOf (step { faultedState 4 .decoded with script := [.reset] })) = some State.reset := by decide
/-- With nothing pending the machine waits (log entry 3). -/
theorem test_waiting : nextOf (step decodedFresh) = some decodedFresh := by decide
/-- F6: the first cause is kept. -/
theorem test_first_cause_is_kept : blockAfter (faultedState 2 .capture) 0x1003 0 faultRegister = some (true, 2) := by
  decide
/-- The table word of `GETS 2`, placed and performed by the very next step after reset. -/
theorem test_withFetchWord_runs_next :
    (nextOf (step (State.reset.withFetchWord 16 0x1002))).bind State.response = some ⟨true, 0⟩ := by decide
/-- A configuration R1 does not allow is refused; the hardware's steps as `step` does. -/
theorem test_broken_configuration_is_refused :
    stepWith { Config.hw with durWidth := 33 } State.reset = .refused .illegalConfiguration := by
  simp [stepWith, Config.wf, Config.widthOk]
/-- `DUR_WIDTH` = 8: a data word is cut to its low eight bits (R37). -/
theorem test_narrow_configuration_clips : (Config.clip { Config.hw with durWidth := 8 } 0x149) = 0x49#32 := by decide

/-! ### The assembler (R43) -/

/-- The example of R43, in mixed case and with a comment. -/
theorem test_assemble_setl : asmText Config.hw "sEtL 7, 73 ; data".toList = .ok [⟨0x2807#16, 0x49#32⟩] := by decide
/-- P1's `LOADSTART`, one value in hex. -/
theorem test_assemble_loadstart : asmText Config.hw "LOADSTART 22, 78, 0x52".toList
    = .ok [⟨0x0800#16, 0x16#32⟩, ⟨0x0801#16, 0x4E#32⟩, ⟨0x0802#16, 0x52#32⟩] := by decide
/-- P2's `CAPBIT 13, 53, 50`. -/
theorem test_assemble_capbit : asmText Config.hw "CAPBIT 13, 53, 50".toList
    = .ok [⟨0x180D#16, 0x35#32⟩, ⟨0x280D#16, 0x32#32⟩] := by decide
/-- An index above 63 is refused; 63 is not. -/
theorem test_assemble_index_limit :
    asmText Config.hw "GETBIT 64".toList = .error .badIndex
    ∧ asmText Config.hw "GETBIT 63".toList = .ok [⟨0x583F#16, 0⟩] := by decide
/-- A missing operand, a bad name and a hex index are refused; an empty line is nothing. -/
theorem test_assemble_refusals :
    asmText Config.hw "SETL 7".toList = .error .wrongOperands
    ∧ asmText Config.hw "FOO".toList = .error .unknownMnemonic
    ∧ asmText Config.hw "GETL 0x7".toList = .error .badIndex
    ∧ asmText Config.hw "  ; nothing".toList = .ok [] := by decide

/-! ### Witnesses: a state and operands that meet the hypotheses of each statement, clause by clause at boundary values -/

/-- The clauses of a write rule: performed at the last legal index, out of range at the first illegal one, after DECODE,
while faulted. -/
abbrev WriteClauses (limit : Nat) : Prop :=
  (∃ (s : State) (i : Idx), s.block.faulted = false ∧ s.block.phase = .capture ∧ i.toNat < limit ∧ i.toNat + 1 = limit)
  ∧ (∃ (s : State) (i : Idx), s.block.faulted = false ∧ limit ≤ i.toNat ∧ i.toNat = limit)
  ∧ (∃ (s : State) (i : Idx), s.block.faulted = false ∧ i.toNat < limit ∧ s.block.phase = .decoded)
  ∧ (∃ s : State, s.block.faulted = true)

/-- The clauses of an indexed read rule. -/
abbrev ReadClauses (limit : Nat) : Prop :=
  (∃ (s : State) (i : Idx), s.block.faulted = false ∧ i.toNat < limit ∧ i.toNat + 1 = limit)
  ∧ (∃ (s : State) (i : Idx), s.block.faulted = false ∧ limit ≤ i.toNat ∧ i.toNat = limit)
  ∧ (∃ s : State, s.block.faulted = true)

/-- The clauses of a result read rule. -/
abbrev ResultClauses : Prop :=
  (∃ s : State, s.block.faulted = false ∧ s.block.phase = .decoded)
  ∧ (∃ s : State, s.block.faulted = false ∧ s.block.phase = .capture)
  ∧ (∃ s : State, s.block.faulted = true)

/-- The clauses of a refused word: unfaulted and faulted. -/
abbrev FaultClauses : Prop := (∃ s : State, s.block.faulted = false) ∧ (∃ s : State, s.block.faulted = true)

theorem witness_write_start : WriteClauses 3 :=
  ⟨⟨State.reset, 2, rfl, rfl, by decide, by decide⟩, ⟨State.reset, 3, rfl, by decide, by decide⟩,
    ⟨decodedFresh, 2, rfl, by decide, rfl⟩, ⟨faultedState 1 .capture, rfl⟩⟩

theorem witness_write_position : WriteClauses 40 :=
  ⟨⟨State.reset, 39, rfl, rfl, by decide, by decide⟩, ⟨State.reset, 40, rfl, by decide, by decide⟩,
    ⟨decodedFresh, 39, rfl, by decide, rfl⟩, ⟨faultedState 1 .capture, rfl⟩⟩

theorem witness_read_start : ReadClauses 3 :=
  ⟨⟨State.reset, 2, rfl, by decide, by decide⟩, ⟨State.reset, 3, rfl, by decide, by decide⟩,
    ⟨faultedState 1 .capture, rfl⟩⟩

theorem witness_read_position : ReadClauses 40 :=
  ⟨⟨State.reset, 39, rfl, by decide, by decide⟩, ⟨State.reset, 40, rfl, by decide, by decide⟩,
    ⟨faultedState 1 .capture, rfl⟩⟩

theorem witness_results : ResultClauses :=
  ⟨⟨decodedFresh, rfl, rfl⟩, ⟨State.reset, rfl, rfl⟩, ⟨faultedState 1 .capture, rfl⟩⟩

theorem witness_faults : FaultClauses := ⟨⟨State.reset, rfl⟩, ⟨faultedState 1 .capture, rfl⟩⟩

theorem witness_EncodeOfDecodeIsTheWord :
    ∃ (r : Request) (i : Instr), decodeRequest r = .ok i ∧ SetWord r.cmd :=
  ⟨⟨0x283F#16, 7⟩, .setl 63 7, rfl, by decide⟩

theorem witness_IllegalWordsFaultOrAreRejected :
    (∃ (r : Request) (e : DecodeError), decodeRequest r = .error e) ∧ FaultClauses ∧ (65535 < 65536) :=
  ⟨⟨⟨0x8001#16, 0⟩, .indexNonzero 1, rfl⟩, witness_faults, by decide⟩

theorem witness_StepRunsTheDecodedCommand :
    ∃ (s : State) (r : Request) (rest : List HostEvent) (i : Instr),
      s.script = .request r :: rest ∧ decodeRequest r = .ok i ∧ i.wellFormed Config.hw = true :=
  ⟨State.reset.withRequest ⟨0x2827#16, 0xFFFFFFFF⟩, ⟨0x2827#16, 0xFFFFFFFF⟩, [], .setl 39 0xFFFFFFFF, rfl, rfl, by decide⟩

theorem witness_StepRefinesTheCommandStep :
    ∃ (s : State) (r : Request) (rest : List HostEvent), s.script = .request r :: rest :=
  ⟨State.reset.withRequest ⟨0x4000#16, 0⟩, ⟨0x4000#16, 0⟩, [], rfl⟩

theorem witness_HostSideOfWaitingAndReset :
    State.reset.script = [] ∧ { State.reset with script := [.reset] }.script = .reset :: [] := ⟨rfl, rfl⟩

theorem witness_BrokenConfigurationIsRefused :
    Config.wf { Config.hw with shortMax := 65 } = false ∧ Config.wf { Config.hw with shortMax := 64 } = true := by decide

theorem witness_ResetEventZeroesEveryRegister :
    ∃ (s : State) (rest : List HostEvent), s.script = .reset :: rest ∧ s.block.faulted = true :=
  ⟨{ faultedState 4 .decoded with script := [.reset] }, [], rfl, rfl⟩

theorem witness_ResetAndClearDifferOnlyInTheFaultRegister : FaultClauses := witness_faults

theorem witness_FreshBufferReadsZero : (2 : Idx).toNat < 3 ∧ (39 : Idx).toNat < 40 := by decide

theorem witness_ClearEmptiesTheBuffer :
    FaultClauses ∧ IllegalFixedForm 0x07 0x3801
      ∧ ∃ (s t : State) (r : Request), step (s.withRequest r) = .next t ∧ s.block.phase = .decoded
          ∧ t.block.phase = .capture :=
  ⟨witness_faults, by decide, decodedFresh, _, ⟨0x3800#16, 0⟩, rfl, rfl, rfl⟩

theorem witness_SetsWritesOneStartDuration : WriteClauses 3 ∧ IllegalIndexedForm 0x01 0x0FC3 :=
  ⟨witness_write_start, by decide⟩

theorem witness_GetsReadsOneStartDuration : ReadClauses 3 ∧ IllegalIndexedForm 0x02 0x1040 :=
  ⟨witness_read_start, by decide⟩

theorem witness_SethWritesOneReferenceDuration :
    WriteClauses 40 ∧ IllegalIndexedForm 0x03 0x1840 ∧ Config.hw.refWindow = none :=
  ⟨witness_write_position, by decide, rfl⟩

theorem witness_GethReadsOneReferenceDuration : ReadClauses 40 ∧ IllegalIndexedForm 0x04 0x2040 :=
  ⟨witness_read_position, by decide⟩

theorem witness_SetlWritesOneDataDuration :
    WriteClauses 40 ∧ IllegalIndexedForm 0x05 0x2840
      ∧ ¬ (20 ≤ (31#32).toNat ∧ (31#32).toNat ≤ 30) ∧ ¬ (65 ≤ (31#32).toNat ∧ (31#32).toNat ≤ 80) :=
  ⟨witness_write_position, by decide, by decide, by decide⟩

theorem witness_GetlReadsOneDataDuration :
    ReadClauses 40 ∧ IllegalIndexedForm 0x06 0x3040 ∧ State.reset.block.phase = .capture :=
  ⟨witness_read_position, by decide, rfl⟩

theorem witness_WrittenDurationIsReadBack :
    State.reset.block.faulted = false ∧ State.reset.block.phase = .capture
      ∧ (2 : Idx).toNat < 3 ∧ (1 : Idx) ≠ 2 ∧ (39 : Idx).toNat < 40 ∧ (38 : Idx) ≠ 39 := by decide

/-- An 8-bit `DUR_WIDTH` is legal, and there 0x149 is stored as 0x49. -/
theorem witness_SetStoresTheLowBitsAtEveryWidth :
    Config.wf { Config.hw with durWidth := 8 } = true
      ∧ State.reset.block.faulted = false ∧ State.reset.block.phase = .capture
      ∧ (2 : Idx).toNat < 3 ∧ (39 : Idx).toNat < 40
      ∧ (blockStep { Config.hw with durWidth := 8 } State.reset.block ⟨0x2827, 0x149⟩).1.low[39] = 0x49#32 := by decide

theorem witness_ClassifyFollowsTheWindows :
    Config.wf { Config.hw with refWindow := some (50, 70) } = true ∧ ¬ (71#32).toNat ≤ 70
      ∧ (19#32).toNat ≤ 19 ∧ (20 ≤ (20#32).toNat ∧ (30#32).toNat ≤ 30) ∧ (31 ≤ (31#32).toNat ∧ (64#32).toNat ≤ 64)
      ∧ (65 ≤ (65#32).toNat ∧ (80#32).toNat ≤ 80) ∧ 81 ≤ (81#32).toNat := by decide

theorem witness_VerdictIsTheFourTests :
    latchFrame Config.hw (bufferOf [0, 0, 0x81, 0xF4, 0x75]) = (decodedOf [0, 0, 0x81, 0xF4, 0x75]).block := rfl

theorem witness_DecodeLatchesTheFrame : FaultClauses ∧ IllegalFixedForm 0x08 0x4001 := ⟨witness_faults, by decide⟩

theorem witness_SentFrameIsTheDecodedFrame :
    Config.hw.wf = true ∧ (∀ p : Fin 40, referenceOk Config.hw (bufferOf [1, 0x90, 0x80, 0x65, 0x76]).high[p] = true)
      ∧ ∀ p : Fin 40,
          if ((1#8 ++ 0x90#8 ++ 0x80#8 ++ 0x65#8 ++ 0x76#8 : BitVec 40)).getMsbD p.val
          then Config.hw.longMin ≤ (bufferOf [1, 0x90, 0x80, 0x65, 0x76]).low[p].toNat
            ∧ (bufferOf [1, 0x90, 0x80, 0x65, 0x76]).low[p].toNat ≤ Config.hw.longMax
          else Config.hw.shortMin ≤ (bufferOf [1, 0x90, 0x80, 0x65, 0x76]).low[p].toNat
            ∧ (bufferOf [1, 0x90, 0x80, 0x65, 0x76]).low[p].toNat ≤ Config.hw.shortMax := by decide

theorem witness_WorkedExampleDecodes :
    Config.wf { Config.hw with refWindow := some (53, 68) } = true
      ∧ Config.admitsWorkedExample { Config.hw with refWindow := some (53, 68) } = true
      ∧ Config.wf { Config.hw with shortMin := 26 } = true
      ∧ Config.admitsWorkedExample { Config.hw with shortMin := 26 } = false := by decide

theorem witness_DecodeDoesNotReadStart : State.reset.block.faulted = false := rfl

theorem witness_FrameDependsOnDataPhaseAlone :
    Config.hw.refWindow = none ∧ workedExample.faulted = false
      ∧ workedExample.low = { workedExample with high := Vector.replicate 40 0 }.low
      ∧ workedExample.high ≠ Vector.replicate 40 0 := by decide

theorem witness_DecodeIsIdempotent :
    ∀ r ∈ [Request.mk 0x2800#16 73, Request.mk 0x5800#16 0, Request.mk 0x4000#16 0], r.cmd ≠ 0x3800 := by decide

theorem witness_CorruptedFrameIsAResult :
    State.reset.block.faulted = false
      ∧ ∃ p : Fin 40, classify Config.hw State.reset.block.low[p] State.reset.block.high[p] = .missing :=
  ⟨rfl, 39, by decide⟩

theorem witness_ValidReadsTheVerdict : ResultClauses ∧ IllegalFixedForm 0x09 0x4801 := ⟨witness_results, by decide⟩

theorem witness_MissingReadsTheCount :
    ResultClauses ∧ IllegalFixedForm 0x0A 0x5040
      ∧ ∃ s : State, s.block.phase = .decoded ∧ s.block.LatchOk Config.hw ∧ 0 < s.block.resMissing.toNat :=
  ⟨witness_results, by decide, decodedFresh, rfl, by decide, by decide⟩

theorem witness_GetbitReadsOneDecodedBit :
    ((∃ (s : State) (p : Idx), s.block.faulted = false ∧ s.block.phase = .decoded ∧ p.toNat < 40 ∧ p.toNat = 39)
      ∧ (∃ (s : State) (p : Idx), s.block.faulted = false ∧ 40 ≤ p.toNat ∧ p.toNat = 40)
      ∧ (∃ (s : State) (p : Idx), s.block.faulted = false ∧ p.toNat < 40 ∧ s.block.phase = .capture)
      ∧ (∃ s : State, s.block.faulted = true)) ∧ IllegalIndexedForm 0x0B 0x5840
      ∧ ∃ (s : State) (p : Fin 40), s.block.LatchOk Config.hw ∧ s.block.phase = .decoded
          ∧ classify Config.hw s.block.low[p] s.block.high[p] = .missing :=
  ⟨⟨⟨decodedFresh, 39, rfl, rfl, by decide, by decide⟩, ⟨State.reset, 40, rfl, by decide, by decide⟩,
    ⟨State.reset, 39, rfl, by decide, rfl⟩, ⟨faultedState 1 .capture, rfl⟩⟩, by decide, decodedFresh, 39, by decide, by decide, by decide⟩

theorem witness_HumidReadsTheHumidity :
    ResultClauses ∧ IllegalFixedForm 0x0C 0x6040
      ∧ ∃ s : State, s.block.LatchOk Config.hw ∧ s.block.phase = .decoded ∧ 1000 < s.block.resHum.toNat :=
  ⟨witness_results, by decide, decodedOf [3, 0xE9, 0, 0, 0xEC], by decide, by decide, by decide⟩

theorem witness_TempReadsTheSignedTenths : ResultClauses ∧ IllegalFixedForm 0x0D 0x6801 := ⟨witness_results, by decide⟩

theorem witness_RawtempReadsTheRawField : ResultClauses ∧ IllegalFixedForm 0x0E 0x7001 := ⟨witness_results, by decide⟩

theorem witness_ParityReadsTheReceivedByte : ResultClauses ∧ IllegalFixedForm 0x0F 0x7FFF := ⟨witness_results, by decide⟩

theorem witness_StatusReadsTheStatusWord : FaultClauses ∧ IllegalFixedForm 0x10 0x8001 := ⟨witness_faults, by decide⟩

theorem witness_TenthsAreTheRealObservations :
    ∃ s : State, s.block.faulted = false ∧ s.block.phase = .decoded ∧ s.block.resTemp = 0x81F4#16 :=
  ⟨decodedOf [0, 0, 0x81, 0xF4, 0x75], by decide, by decide, by decide⟩

theorem witness_ValidFrameIsInPhysicalRange :
    ∃ b : Block, b.LatchOk Config.hw ∧ b.phase = .decoded ∧ b.resValid = true ∧ b.resTemp = 0x81F4#16 :=
  ⟨(decodedOf [0, 0, 0x81, 0xF4, 0x75]).block, by decide, by decide, by decide, by decide⟩

theorem witness_AdmissionFollowsThePriority :
    (faultedState 1 .capture).block.faulted = true ∧ State.reset.block.faulted = false ∧ decodedFresh.block.faulted = false
      ∧ ¬ TableWord 0x0FC3
      ∧ (TableWord 0x0803 ∧ OutOfRangeWord 0x0803)
      ∧ (TableWord 0x0802 ∧ ¬ OutOfRangeWord 0x0802 ∧ SetWord 0x0802 ∧ decodedFresh.block.phase = .decoded)
      ∧ (TableWord 0x5827 ∧ ¬ OutOfRangeWord 0x5827 ∧ ¬ SetWord 0x5827 ∧ ResultWord 0x5827
          ∧ State.reset.block.phase = .capture)
      ∧ (TableWord 0x8000 ∧ ¬ OutOfRangeWord 0x8000 ∧ ¬ SetWord 0x8000 ∧ ¬ ResultWord 0x8000) :=
  ⟨rfl, rfl, rfl, by decide, by decide, by decide, by decide, by decide⟩

theorem witness_FaultEntryWritesOnlyTheFaultRegister :
    ∃ s t : State, step s = .next t ∧ s.block.faulted = false ∧ t.block.faulted = true :=
  ⟨State.reset.withRequest ⟨0x2828#16, 26⟩, _, rfl, rfl, rfl⟩

theorem witness_OnlyResetLeavesTheFaultState :
    ∃ s t : State, step s = .next t ∧ s.block.faulted = true ∧ ∀ rest, s.script ≠ .reset :: rest :=
  ⟨(faultedState 1 .capture).withRequest ⟨0x3800#16, 0⟩, _, rfl, rfl, by simp [State.withRequest]⟩

theorem witness_FaultIsStickyAlongEveryRun :
    ∃ s t : State, s.block.faulted = true ∧ (∀ e ∈ s.script, e ≠ .reset) ∧ s.script.length = 2
      ∧ Host.Core.run Sys2Proof.core 2 s = .next t :=
  ⟨((faultedState 1 .capture).withRequest ⟨0x3800#16, 0⟩).withRequest ⟨0x8000#16, 0⟩, _, rfl,
    by simp [State.withRequest, faultedState, stateOf], rfl, rfl⟩

theorem witness_OnlyNamedCommandsWriteEachRegister :
    (∃ (s t : State) (r : Request), step (s.withRequest r) = .next t ∧ r.cmd ≠ 0x3800 ∧ r.cmd = 0x0803)
      ∧ ¬ (0x0800 ≤ (0x0803 : Cmd).toNat ∧ (0x0803 : Cmd).toNat ≤ 0x0802)
      ∧ ¬ (0x1800 ≤ (0x1828 : Cmd).toNat ∧ (0x1828 : Cmd).toNat ≤ 0x1827)
      ∧ ¬ (0x2800 ≤ (0x2828 : Cmd).toNat ∧ (0x2828 : Cmd).toNat ≤ 0x2827)
      ∧ (0x4001 : Cmd) ≠ 0x4000 :=
  ⟨⟨State.reset, _, ⟨0x0803#16, 22⟩, rfl, by decide, rfl⟩, by decide, by decide, by decide, by decide⟩

theorem witness_ReadsHaveNoSideEffect :
    (Instr.getl 39).mnemonic ∈
        [Mnemonic.gets, .geth, .getl, .valid, .missing, .getbit, .humid, .temp, .rawtemp, .parity, .status]
      ∧ (∃ t, exec (.getl 39) State.reset = .next t ∧ ∃ rdata, t.response = some ⟨true, rdata⟩)
      ∧ (∃ t, exec (.getl 40) State.reset = .next t ∧ t.response = some ⟨false, 0#32⟩) :=
  ⟨by decide, ⟨_, rfl, _, rfl⟩, ⟨_, rfl, rfl⟩⟩

theorem witness_DataWordOfOtherCommandsIsIgnored : ¬ SetWord 0x4000 ∧ ¬ SetWord 0x0840 := by decide

theorem witness_StepKeepsTheInvariant :
    ∃ s t : State, s.block.Inv Config.hw ∧ s.block.phase = .decoded ∧ step s = .next t ∧ s.script ≠ [] :=
  ⟨decodedFresh.withRequest ⟨0x3800#16, 0⟩, _, ⟨by decide, by decide, by decide, by decide⟩, rfl, rfl,
    by simp [State.withRequest]⟩

theorem witness_StepAtAnyConfigurationKeepsTheInvariant :
    ∃ (cfg : Config) (s t : State), s.block.Inv cfg ∧ cfg.durWidth = 8 ∧ stepWith cfg s = .next t ∧ s.script ≠ [] :=
  ⟨{ Config.hw with durWidth := 8 }, State.reset.withRequest ⟨0x2800#16, 0x149⟩, _,
    ⟨by decide, by decide, by decide, by decide⟩, rfl, rfl, by simp [State.withRequest]⟩

theorem witness_AssembledCommandDecodes :
    Config.hw.durWidth ≤ 32 ∧ 63 ≤ 63 ∧ 2 ^ 32 - 1 < 2 ^ Config.hw.durWidth ∧ 63 < 64
      ∧ 2 ^ Config.hw.durWidth ≤ 2 ^ 32
      ∧ asmLine Config.hw ⟨.command .setl, [.decimal 64, .hex (2 ^ 32)]⟩ = .error .badIndex
      ∧ asmLine Config.hw ⟨.command .setl, [.decimal 63, .hex (2 ^ 32)]⟩ = .error .valueTooLarge
      ∧ asmLine Config.hw ⟨.command .setl, [.hex 63]⟩ = .error .wrongOperands := by decide

theorem witness_PseudoInstructionsExpand :
    (∃ x, asmLine Config.hw ⟨.command .seth, [.decimal 13, .decimal 53]⟩ = .ok [x])
      ∧ (∃ x, asmLine Config.hw ⟨.command .setl, [.decimal 13, .hex 50]⟩ = .ok [x])
      ∧ (∃ x, asmLine Config.hw ⟨.command .sets, [.decimal 0, .decimal 22]⟩ = .ok [x])
      ∧ (∃ x, asmLine Config.hw ⟨.command .sets, [.decimal 1, .decimal 78]⟩ = .ok [x])
      ∧ (∃ x, asmLine Config.hw ⟨.command .sets, [.decimal 2, .decimal 82]⟩ = .ok [x]) :=
  ⟨⟨_, rfl⟩, ⟨_, rfl⟩, ⟨_, rfl⟩, ⟨_, rfl⟩, ⟨_, rfl⟩⟩

end Sys2Proof.Tests
end

section
/-!
SUPPORT. What the step at any configuration can do, said once: its admission, its word by row and index, and its next
states (spec/00_scope.md R1, spec/30_encoding.md R38, R42).
-/

namespace Sys2Proof

/-- A configuration is well formed exactly when it meets R1's table. -/
theorem Config.wf_iff (cfg : Config) :
    cfg.wf = true ↔
      (1 ≤ cfg.durWidth ∧ cfg.durWidth ≤ 32 ∧ cfg.shortMin ≤ cfg.shortMax ∧ cfg.shortMax < cfg.longMin
        ∧ cfg.longMin ≤ cfg.longMax ∧ cfg.longMax < 2 ^ cfg.durWidth
        ∧ ∀ lo hi, cfg.refWindow = some (lo, hi) → lo ≤ 53 ∧ 68 ≤ hi) := by
  have href : cfg.refOk = true ↔ ∀ lo hi, cfg.refWindow = some (lo, hi) → lo ≤ 53 ∧ 68 ≤ hi := by
    cases hw : cfg.refWindow <;> simp [Config.refOk, hw, Prod.ext_iff]
  simp only [Config.wf, Config.widthOk, Config.shortOk, Config.apartOk, Config.longOk, Bool.and_eq_true,
    decide_eq_true_eq, href, and_assoc]

/-- The match of a row with an index in its low bits is the word with the row's OP, RSV = 0 and that IDX (R34, R38). -/
theorem Mnemonic.matchWord_add_idx (m : Mnemonic) (i : Idx) : m.matchWord + i.setWidth 16 = m.op ++ 0#5 ++ i := by
  apply BitVec.eq_of_toNat_eq
  have hi := i.isLt
  have hop := m.op.isLt
  rw [append_toNat, BitVec.toNat_add, Mnemonic.matchWord, BitVec.toNat_append, BitVec.toNat_setWidth,
    ← Nat.shiftLeft_add_eq_or_of_lt (0#11).isLt, Nat.shiftLeft_eq]
  simp only [BitVec.toNat_ofNat]
  omega

namespace Machine

/-- A fault is taken by an unfaulted block alone (R76, R78). -/
theorem unfaulted_of_admission_fault {b : Block} {row : Option Mnemonic} {rsv : BitVec 5} {idx : Idx} {c : Cause}
    (h : admission b row rsv idx = .fault c) : b.faulted = false := by
  by_contra hf
  unfold admission at h
  rw [if_pos (by simpa using hf)] at h
  split at h <;> cases h

/-- A word without a row is never admitted (R42, R76). -/
theorem admission_none_ne_admitted (b : Block) (rsv : BitVec 5) (idx : Idx) :
    admission b none rsv idx ≠ .admitted := by
  unfold admission
  split <;> simp [legalWord]

/-- An admitted command finds the phase its row asks for (R38, R76). -/
theorem phase_of_admitted {b : Block} {m : Mnemonic} {rsv : BitVec 5} {idx : Idx} {p : Phase}
    (h : admission b (some m) rsv idx = .admitted) (hp : m.needs = some p) : b.phase = p := by
  unfold admission at h
  split_ifs at h with _ hstatus _ _ hwrite hresult
  · obtain ⟨-, rfl⟩ : legalWord (some m) rsv idx = true ∧ m = .status := by simpa using hstatus
    cases hp
  · cases hb : b.phase <;> cases p
    · rfl
    · exact absurd ⟨hp, hb⟩ hresult
    · exact absurd ⟨hp, hb⟩ hwrite
    · rfl

/-- What the step of R42 does with a request: it rejects it, takes a fault, or performs the row's command. -/
theorem blockStep_cases (cfg : Config) (b : Block) (r : Request) :
    (admission b (rowOf (opField r.cmd)) (rsvField r.cmd) (idxField r.cmd) = .reject
        ∧ blockStep cfg b r = (b, ⟨false, 0#32⟩))
    ∨ (∃ c, admission b (rowOf (opField r.cmd)) (rsvField r.cmd) (idxField r.cmd) = .fault c
        ∧ blockStep cfg b r = (faultEntry b c, ⟨false, 0#32⟩))
    ∨ (∃ m, rowOf (opField r.cmd) = some m
        ∧ admission b (some m) (rsvField r.cmd) (idxField r.cmd) = .admitted
        ∧ blockStep cfg b r = ((perform cfg m (idxField r.cmd) r.wdata b).1,
            ⟨true, (perform cfg m (idxField r.cmd) r.wdata b).2⟩)) := by
  unfold blockStep
  cases hv : admission b (rowOf (opField r.cmd)) (rsvField r.cmd) (idxField r.cmd) with
  | reject  => exact .inl ⟨rfl, rfl⟩
  | fault c => exact .inr (.inl ⟨c, rfl, rfl⟩)
  | admitted =>
    cases hrow : rowOf (opField r.cmd) with
    | none   => exact absurd (hrow ▸ hv) (admission_none_ne_admitted _ _ _)
    | some m => exact .inr (.inr ⟨m, rfl, hrow ▸ hv, rfl⟩)

/-- An indexed command that meets its row's conditions is performed with `ok` = 1 (R42, R76). -/
theorem blockStep_of_admissible (cfg : Config) (b : Block) (m : Mnemonic) (i : Idx) (v : Word)
    (hf : b.faulted = false) (hm : m.indexed = true) (ha : Admissible m i b) :
    blockStep cfg b ⟨m.matchWord + i.setWidth 16, v⟩ =
      ((perform cfg m i v b).1, ⟨true, (perform cfg m i v b).2⟩) := by
  rw [m.matchWord_add_idx]
  simp only [blockStep, opField_append, rsvField_append, idxField_append, rowOf_op,
    admission_admissible b m i hf (.inl hm) ha]

/-- A broken configuration is refused (R1). -/
theorem stepWith_of_not_wf (cfg : Config) (s : State) (h : cfg.wf = false) :
    stepWith cfg s = .refused .illegalConfiguration := by
  simp [stepWith, h]

/-- The step at a well-formed configuration, by the host's next event (R42, R86, R87). -/
theorem stepWith_of_wf (cfg : Config) (s : State) (h : cfg.wf = true) :
    (s.script = [] ∧ stepWith cfg s = .next s)
    ∨ (∃ rest, s.script = .reset :: rest
        ∧ stepWith cfg s = .next { block := Block.reset, script := rest, response := none })
    ∨ (∃ r rest, s.script = .request r :: rest
        ∧ stepWith cfg s = .next
            { block    := (blockStep cfg s.block r).1
              script   := rest
              response := some (blockStep cfg s.block r).2 }) := by
  obtain ⟨b, script, response⟩ := s
  rcases script with _ | ⟨r | _, rest⟩
  · exact .inl ⟨rfl, by simp [stepWith, nextEvent, h]⟩
  · exact .inr (.inr ⟨r, rest, rfl, by simp [stepWith, nextEvent, h]⟩)
  · exact .inr (.inl ⟨rest, rfl, by simp [stepWith, nextEvent, h, State.resetBlock]⟩)

/-- The block after a step at any configuration that answers: unchanged, reset, or stepped by a request. -/
theorem stepWith_block_cases (cfg : Config) (s t : State) (h : stepWith cfg s = .next t) :
    t.block = s.block ∨ t.block = Block.reset ∨ ∃ r, t.block = (blockStep cfg s.block r).1 := by
  cases hwf : cfg.wf with
  | false =>
    rw [stepWith_of_not_wf cfg s hwf] at h
    cases h
  | true =>
    rcases stepWith_of_wf cfg s hwf with ⟨-, hs⟩ | ⟨_, -, hs⟩ | ⟨r, _, -, hs⟩
    all_goals
      rw [hs, Host.Outcome.next.injEq] at h
      subst h
    · exact .inl rfl
    · exact .inr (.inl rfl)
    · exact .inr (.inr ⟨r, rfl⟩)

/-- Settles O10: R1's table is `wf`, and the step asks for nothing else. -/
theorem brokenConfigurationIsRefused : Obligations.BrokenConfigurationIsRefused := by
  refine ⟨rfl, Config.wf_iff, stepWith_of_not_wf, fun cfg s h => ?_⟩
  rcases stepWith_of_wf cfg s h with ⟨-, hs⟩ | ⟨_, -, hs⟩ | ⟨_, _, -, hs⟩ <;> exact ⟨_, hs⟩

end Machine

end Sys2Proof
end

section
/-!
SUPPORT. Writes and reads at a legal index, and what they leave of the invariant (spec/10_state.md R7, R8, R14–R16).
-/

namespace Sys2Proof

/-- Storing a data word keeps every duration within `DUR_WIDTH` bits, at any index (R7, R37). -/
theorem Config.all_fits_setIfInBounds (cfg : Config) {n : Nat} (ds : Vector Duration n) (i : Nat) (v : Word)
    (h : ds.toList.all cfg.fits = true) : (ds.setIfInBounds i (cfg.clip v)).toList.all cfg.fits = true := by
  rw [List.all_eq_true] at h ⊢
  intro d hd
  rw [Vector.toList_setIfInBounds] at hd
  rcases List.mem_or_eq_of_mem_set hd with hd | rfl
  · exact h d hd
  · exact cfg.fits_clip v

/-- Zero fits in `DUR_WIDTH` bits. -/
theorem Config.all_fits_zero (cfg : Config) (n : Nat) : (Vector.replicate n 0#32).toList.all cfg.fits = true := by
  simp [Config.fits]

/-- At a legal index the bounds check of a write always passes. -/
theorem setIfInBounds_of_lt {α : Type} {n : Nat} (xs : Vector α n) (i : Nat) (x : α) (h : i < n) :
    xs.setIfInBounds i x = xs.set i x h := by
  ext j hj
  rw [Vector.getElem_setIfInBounds, Vector.getElem_set]

namespace Machine

theorem writeStart_of_lt (b : Block) (i : Nat) (v : Duration) (h : i < 3) :
    writeStart b i v = { b with start := b.start.set i v h } := by
  rw [writeStart, setIfInBounds_of_lt]

theorem writeHigh_of_lt (b : Block) (i : Nat) (v : Duration) (h : i < 40) :
    writeHigh b i v = { b with high := b.high.set i v h } := by
  rw [writeHigh, setIfInBounds_of_lt]

theorem writeLow_of_lt (b : Block) (i : Nat) (v : Duration) (h : i < 40) :
    writeLow b i v = { b with low := b.low.set i v h } := by
  rw [writeLow, setIfInBounds_of_lt]

/-- DECODE's result is its own frame: latching again changes nothing (R64). -/
theorem latchFrame_latchFrame (cfg : Config) (b : Block) : latchFrame cfg (latchFrame cfg b) = latchFrame cfg b := by
  have hbits := decodedBits_congr cfg (latchFrame cfg b) b (latchFrame_low cfg b) (latchFrame_high cfg b)
  have hmissing := missingCount_congr cfg (latchFrame cfg b) b (latchFrame_low cfg b) (latchFrame_high cfg b)
  rw [latchFrame_eq_self_iff]
  simp only [hbits, hmissing, latchFrame_phase, latchFrame_resBit, latchFrame_resMissing, latchFrame_resHum,
    latchFrame_resTemp, latchFrame_resParity, latchFrame_resValid, and_self]

/-- Whether a block holds its own frame does not depend on the fault register (R63, R77). -/
theorem latchFrame_faultEntry_eq_self_iff (cfg : Config) (b : Block) (c : Cause) :
    latchFrame cfg (faultEntry b c) = faultEntry b c ↔ latchFrame cfg b = b := by
  have hbits := decodedBits_congr cfg (faultEntry b c) b rfl rfl
  have hmissing := missingCount_congr cfg (faultEntry b c) b rfl rfl
  simp only [latchFrame_eq_self_iff, hbits, hmissing, faultEntry_phase, faultEntry_resBit, faultEntry_resMissing,
    faultEntry_resHum, faultEntry_resTemp, faultEntry_resParity, faultEntry_resValid]

end Machine

end Sys2Proof
end

section
/-!
SUPPORT. The block's invariant at any configuration: it holds at reset, and every effect, fault entry and step keeps it
(spec/10_state.md R7, R14–R16).
-/

namespace Sys2Proof.Machine

/-- No cause has the code 0, which stands for no fault (R16, R75). -/
theorem Cause.code_ne_zero (c : Cause) : c.code ≠ 0#4 := by cases c <;> decide

/-- The highest code is 4 (R75). -/
theorem Cause.code_toNat_le (c : Cause) : c.code.toNat ≤ 4 := by cases c <;> decide

/-- The invariant holds at reset (R86). -/
theorem inv_reset (cfg : Config) : Block.reset.Inv cfg where
  faultRegister := by decide
  capture       := fun _ => ⟨rfl, rfl, rfl, rfl, rfl, rfl⟩
  latch         := fun h => nomatch h
  width         := ⟨cfg.all_fits_zero 3, cfg.all_fits_zero 40, cfg.all_fits_zero 40⟩

section
variable {cfg : Config} {b : Block} (hb : b.Inv cfg)
include hb

/-- Fault entry keeps it: the cause codes are 1 to 4, and the fault register is not decoded (R75, R77). -/
theorem inv_faultEntry (c : Cause) : (faultEntry b c).Inv cfg where
  faultRegister := ⟨by simp [c.code_ne_zero], c.code_toNat_le⟩
  capture       := hb.capture
  latch         := fun h => (latchFrame_faultEntry_eq_self_iff cfg b c).2 (hb.latch h)
  width         := hb.width

/-- CLEAR keeps it: durations and results are 0, the fault register stays (R44). -/
theorem inv_clearEffect : (clearEffect b).1.Inv cfg where
  faultRegister := hb.faultRegister
  capture       := fun _ => ⟨rfl, rfl, rfl, rfl, rfl, rfl⟩
  latch         := fun h => nomatch h
  width         := ⟨cfg.all_fits_zero 3, cfg.all_fits_zero 40, cfg.all_fits_zero 40⟩

/-- DECODE keeps it: the results are those of the durations, which it does not touch (R63). -/
theorem inv_latchFrame : (latchFrame cfg b).Inv cfg where
  faultRegister := by
    rw [Block.FaultRegisterOk, latchFrame_faulted, latchFrame_cause]
    exact hb.faultRegister
  capture       := fun h => by
    rw [latchFrame_phase] at h
    cases h
  latch         := fun _ => latchFrame_latchFrame cfg b
  width         := by
    rw [Block.WidthOk, latchFrame_start, latchFrame_high, latchFrame_low]
    exact hb.width

/-- In CAPTURE the durations may be replaced by any that fit: no result depends on them yet (R14, R15). -/
theorem inv_with_durations (hp : b.phase = .capture) (start : Vector Duration 3) (high low : Vector Duration 40)
    (hw : Block.WidthOk cfg { b with start := start, high := high, low := low }) :
    Block.Inv cfg { b with start := start, high := high, low := low } where
  faultRegister := hb.faultRegister
  capture       := hb.capture
  latch         := fun h => by
    rw [show b.phase = .decoded from h] at hp
    cases hp
  width         := hw

/-- Every command keeps it, performed in the phase its row asks for: a SET in CAPTURE alone (R38). -/
theorem inv_perform (m : Mnemonic) (idx : Idx) (v : Word) (hp : ∀ p, m.needs = some p → b.phase = p) :
    (perform cfg m idx v b).1.Inv cfg := by
  obtain ⟨hstart, hhigh, hlow⟩ := hb.width
  cases m with
  | sets   => exact inv_with_durations hb (hp _ rfl) _ _ _ ⟨cfg.all_fits_setIfInBounds _ _ v hstart, hhigh, hlow⟩
  | seth   => exact inv_with_durations hb (hp _ rfl) _ _ _ ⟨hstart, cfg.all_fits_setIfInBounds _ _ v hhigh, hlow⟩
  | setl   => exact inv_with_durations hb (hp _ rfl) _ _ _ ⟨hstart, hhigh, cfg.all_fits_setIfInBounds _ _ v hlow⟩
  | clear  => exact inv_clearEffect hb
  | decode => exact inv_latchFrame hb
  | gets | geth | getl | valid | missing | getbit | humid | temp | rawtemp | parity | status => exact hb

/-- The step of R42 on any request keeps it. -/
theorem inv_blockStep (r : Request) : (blockStep cfg b r).1.Inv cfg := by
  rcases blockStep_cases cfg b r with ⟨-, h⟩ | ⟨c, -, h⟩ | ⟨m, -, hadmitted, h⟩ <;> rw [h]
  · exact hb
  · exact inv_faultEntry hb c
  · exact inv_perform hb m _ _ fun _ => phase_of_admitted hadmitted

end

/-- Settles O51: a step that answers leaves the block, resets it, or serves one request. -/
theorem stepAtAnyConfigurationKeepsTheInvariant : Obligations.StepAtAnyConfigurationKeepsTheInvariant := by
  intro cfg s t hs h
  rcases stepWith_block_cases cfg s t h with ht | ht | ⟨r, ht⟩ <;> rw [ht]
  · exact hs
  · exact inv_reset cfg
  · exact inv_blockStep hs r

end Sys2Proof.Machine
end

section
/-!
SUPPORT. The SETs and their reads at every configuration (spec/30_encoding.md R37, spec/40_buffer_access.md R45–R50).
-/

namespace Sys2Proof.Machine

/-- The conditions of a row with the index limit `n` and no phase. -/
theorem admissible_of_lt {m : Mnemonic} {n : Nat} {i : Idx} {b : Block} (hl : m.limit = some n) (hn : m.needs = none)
    (hi : i.toNat < n) : Admissible m i b :=
  ⟨fun k hk => by rw [hl] at hk; cases hk; exact hi, fun p hp => by rw [hn] at hp; cases hp⟩

/-- The conditions of a row with the index limit `n` in the phase it needs. -/
theorem admissible_of_lt_of_phase {m : Mnemonic} {n : Nat} {i : Idx} {b : Block} (hl : m.limit = some n)
    (hn : m.needs = some b.phase) (hi : i.toNat < n) : Admissible m i b :=
  ⟨fun k hk => by rw [hl] at hk; cases hk; exact hi, fun p hp => by rw [hn] at hp; cases hp; rfl⟩

/-- Settles O55: each word is its row's match with the index, admitted and performed. -/
theorem setStoresTheLowBitsAtEveryWidth : Obligations.SetStoresTheLowBitsAtEveryWidth := by
  intro cfg b i v hf
  refine ⟨fun hp => ⟨fun h => ?_, fun h => ?_, fun h => ?_⟩, fun h => ?_, fun h => ?_, fun h => ?_⟩
  · rw [← writeStart_of_lt]
    exact blockStep_of_admissible cfg b .sets i v hf rfl (admissible_of_lt_of_phase rfl (hp ▸ rfl) h)
  · rw [← writeHigh_of_lt]
    exact blockStep_of_admissible cfg b .seth i v hf rfl (admissible_of_lt_of_phase rfl (hp ▸ rfl) h)
  · rw [← writeLow_of_lt]
    exact blockStep_of_admissible cfg b .setl i v hf rfl (admissible_of_lt_of_phase rfl (hp ▸ rfl) h)
  · rw [← readStart_of_lt, ← zext32_word (readStart b _)]
    exact blockStep_of_admissible cfg b .gets i v hf rfl (admissible_of_lt rfl rfl h)
  · rw [← readHigh_of_lt, ← zext32_word (readHigh b _)]
    exact blockStep_of_admissible cfg b .geth i v hf rfl (admissible_of_lt rfl rfl h)
  · rw [← readLow_of_lt, ← zext32_word (readLow b _)]
    exact blockStep_of_admissible cfg b .getl i v hf rfl (admissible_of_lt rfl rfl h)

end Sys2Proof.Machine
end

section
/-!
SUPPORT. What each class means, the bits of a field, and the worked example at every configuration (spec/00_scope.md R1,
spec/41_decode.md R52–R57, spec/95_test_vectors.md section 1).
-/

namespace Sys2Proof.Machine

/-- A duration lies in a window, both ends included (R52). -/
theorem inWindow_iff (lo hi : Nat) (d : Duration) : inWindow lo hi d = true ↔ lo ≤ d.toNat ∧ d.toNat ≤ hi := by
  simp [inWindow]

/-- ZERO: the reference check passes and the duration is short (R52). -/
theorem classify_eq_zero_iff (cfg : Config) (d r : Duration) :
    classify cfg d r = .zero ↔ referenceOk cfg r = true ∧ cfg.shortMin ≤ d.toNat ∧ d.toNat ≤ cfg.shortMax := by
  rw [← inWindow_iff, classify]
  split_ifs <;> simp_all

/-- ONE: the reference check passes and the duration is long; a long one is never short, since the windows do not overlap
(R1, R52). -/
theorem classify_eq_one_iff (cfg : Config) (d r : Duration) (hapart : cfg.shortMax < cfg.longMin) :
    classify cfg d r = .one ↔ referenceOk cfg r = true ∧ cfg.longMin ≤ d.toNat ∧ d.toNat ≤ cfg.longMax := by
  have hdisjoint : inWindow cfg.longMin cfg.longMax d = true → inWindow cfg.shortMin cfg.shortMax d = false := by
    rw [← Bool.not_eq_true, inWindow_iff, inWindow_iff]
    omega
  rw [← inWindow_iff, classify]
  split_ifs <;> simp_all

/-- Every reference window R1 allows contains 53 to 68. -/
theorem referenceOk_of_wf (cfg : Config) (r : Duration) (hwf : cfg.wf = true) (hlo : 53 ≤ r.toNat)
    (hhi : r.toNat ≤ 68) : referenceOk cfg r = true := by
  obtain ⟨-, -, -, -, -, -, href⟩ := cfg.wf_iff.1 hwf
  cases hw : cfg.refWindow with
  | none => simp [referenceOk, hw]
  | some window =>
    obtain ⟨lo, hi⟩ := window
    have := href lo hi hw
    simp only [referenceOk, hw, inWindow_iff]
    omega

/-- No bit is missing exactly when no position classifies as MISSING (R54). -/
theorem missingCount_eq_zero_iff (cfg : Config) (b : Block) :
    missingCount cfg b = 0 ↔ ∀ (p : Nat) (h : p < 40), classify cfg b.low[p] b.high[p] ≠ .missing := by
  simp only [missingCount, List.countP_eq_zero, beq_iff_eq, Vector.mem_toList_iff, Vector.mem_iff_getElem,
    forall_exists_index]
  constructor
  · intro h p hp
    exact classes_get cfg b p hp ▸ h _ p hp rfl
  · rintro h _ p hp rfl
    exact classes_get cfg b p hp ▸ h p hp

/-- The bits of a most-significant-first number are the listed ones (R55). -/
theorem testBit_msbFirst (bits : List Bool) (j : Nat) (h : j < bits.length) :
    (msbFirst bits).testBit (bits.length - 1 - j) = bits[j] := by
  induction bits using List.reverseRecOn with
  | nil => simp at h
  | append_singleton xs x ih =>
    rw [msbFirst_append]
    simp only [List.length_append, List.length_singleton, Nat.add_sub_cancel] at h ⊢
    rcases Nat.lt_succ_iff_lt_or_eq.1 h with hj | rfl
    · rw [List.getElem_append_left hj, ← ih hj, show xs.length - j = xs.length - 1 - j + 1 by omega,
        Nat.testBit_succ]
      congr 1
      have := x.toNat_le
      omega
    · cases x <;> simp

/-- Bit `width - 1 - j` of a field is the bit of its `j`-th frame position (R55–R57). -/
theorem getLsbD_fieldAt (bits : Vector Bool 40) (first width j : Nat) (hj : j < width) (hw : first + width ≤ 40) :
    (fieldAt bits first width).getLsbD (width - 1 - j) = bits[first + j] := by
  have hlen : ((bits.toList.drop first).take width).length = width := by simp; omega
  have := testBit_msbFirst ((bits.toList.drop first).take width) j (by omega)
  simp only [hlen] at this
  rw [fieldAt, BitVec.getLsbD_ofNat, decide_eq_true (show width - 1 - j < width by omega), Bool.true_and, this]
  simp

/-- The first sixteen bits, read from the humidity field (R55). -/
theorem getElem_eq_humidityField (bits : Vector Bool 40) (j : Nat) (hj : j < 16) :
    bits[j] = (humidityField bits).getLsbD (15 - j) := by
  simpa [humidityField] using (getLsbD_fieldAt bits 0 16 j hj (by decide)).symm

/-- The next sixteen, read from the temperature field (R56). -/
theorem getElem_eq_temperatureField (bits : Vector Bool 40) (j : Nat) (hj : j < 16) :
    bits[16 + j] = (temperatureField bits).getLsbD (15 - j) :=
  (getLsbD_fieldAt bits 16 16 j hj (by decide)).symm

/-! ### The worked example -/

/-- At a configuration R1 allows that admits the worked example, 25 and 26 are ZERO. -/
theorem classify_eq_zero_of_admits (cfg : Config) (d r : Duration) (hadmits : cfg.admitsWorkedExample = true)
    (hr : referenceOk cfg r = true) (hlo : 25 ≤ d.toNat) (hhi : d.toNat ≤ 26) : classify cfg d r = .zero := by
  simp only [Config.admitsWorkedExample, Bool.and_eq_true, decide_eq_true_eq] at hadmits
  exact (classify_eq_zero_iff cfg d r).2 ⟨hr, by omega, by omega⟩

/-- There, 72 to 74 are ONE. -/
theorem classify_eq_one_of_admits (cfg : Config) (d r : Duration) (hwf : cfg.wf = true)
    (hadmits : cfg.admitsWorkedExample = true) (hr : referenceOk cfg r = true) (hlo : 72 ≤ d.toNat)
    (hhi : d.toNat ≤ 74) : classify cfg d r = .one := by
  obtain ⟨-, -, -, hapart, -, -, -⟩ := cfg.wf_iff.1 hwf
  simp only [Config.admitsWorkedExample, Bool.and_eq_true, decide_eq_true_eq] at hadmits
  exact (classify_eq_one_iff cfg d r hapart).2 ⟨hr, by omega, by omega⟩

/-- The worked example's reference durations lie in 53..68. -/
theorem workedExample_high (p : Fin 40) :
    53 ≤ workedExample.high[p].toNat ∧ workedExample.high[p].toNat ≤ 68 := by
  revert p
  decide

/-- Its data-phase durations lie in 25..26 or in 72..74. -/
theorem workedExample_low (p : Fin 40) :
    (25 ≤ workedExample.low[p].toNat ∧ workedExample.low[p].toNat ≤ 26)
      ∨ (72 ≤ workedExample.low[p].toNat ∧ workedExample.low[p].toNat ≤ 74) := by
  revert p
  decide

/-- All configurations that admit the worked example classify it alike. -/
theorem classes_workedExample (cfg cfg' : Config) (hwf : cfg.wf = true) (hwf' : cfg'.wf = true)
    (hadmits : cfg.admitsWorkedExample = true) (hadmits' : cfg'.admitsWorkedExample = true) :
    classes cfg workedExample = classes cfg' workedExample := by
  ext p hp
  rw [classes_get, classes_get]
  obtain ⟨hrlo, hrhi⟩ := workedExample_high ⟨p, hp⟩
  have hr := referenceOk_of_wf cfg _ hwf hrlo hrhi
  have hr' := referenceOk_of_wf cfg' _ hwf' hrlo hrhi
  rcases workedExample_low ⟨p, hp⟩ with ⟨hlo, hhi⟩ | ⟨hlo, hhi⟩
  · exact (classify_eq_zero_of_admits cfg _ _ hadmits hr hlo hhi).trans
      (classify_eq_zero_of_admits cfg' _ _ hadmits' hr' hlo hhi).symm
  · exact (classify_eq_one_of_admits cfg _ _ hwf hadmits hr hlo hhi).trans
      (classify_eq_one_of_admits cfg' _ _ hwf' hadmits' hr' hlo hhi).symm

/-- The frame depends on the configuration through the classes alone (R53, R54). -/
theorem latchFrame_congr_classes (cfg cfg' : Config) (b : Block) (h : classes cfg b = classes cfg' b) :
    latchFrame cfg b = latchFrame cfg' b := by
  have hbits : decodedBits cfg b = decodedBits cfg' b := by simp only [decodedBits, h]
  have hmissing : missingCount cfg b = missingCount cfg' b := by simp only [missingCount, h]
  simp only [latchFrame, hbits, hmissing]

/-- The source's result of its worked example (95_test_vectors.md section 1). -/
abbrev WorkedResult (t : Block) : Prop :=
  t.resValid = true ∧ t.resMissing = 0#6 ∧ t.resHum = 303#16 ∧ t.resTemp = 298#16 ∧ t.resParity = 0x5B#8

/-- The worked example at the hardware's windows. -/
theorem workedResult_hw : WorkedResult (latchFrame Config.hw workedExample) := by decide

/-- A 1 bit has its duration in the long window (R52, R53). -/
theorem long_of_bit (cfg : Config) (b : Block) (p : Nat) (h : p < 40) (hapart : cfg.shortMax < cfg.longMin)
    (hbit : (decodedBits cfg b)[p] = true) : cfg.longMin ≤ b.low[p].toNat ∧ b.low[p].toNat ≤ cfg.longMax := by
  rw [decodedBits_get, beq_iff_eq] at hbit
  exact ((classify_eq_one_iff cfg _ _ hapart).1 hbit).2

/-- Where nothing is missing, a 0 bit has its duration in the short window (R52–R54). -/
theorem short_of_bit (cfg : Config) (b : Block) (p : Nat) (h : p < 40) (hcount : missingCount cfg b = 0)
    (hbit : (decodedBits cfg b)[p] = false) : cfg.shortMin ≤ b.low[p].toNat ∧ b.low[p].toNat ≤ cfg.shortMax := by
  rw [decodedBits_get] at hbit
  have hzero : classify cfg b.low[p] b.high[p] = .zero := by
    cases hclass : classify cfg b.low[p] b.high[p] with
    | zero    => rfl
    | one     => simp [hclass] at hbit
    | missing => exact absurd hclass ((missingCount_eq_zero_iff cfg b).1 hcount p h)
  exact ((classify_eq_zero_iff cfg _ _).1 hzero).2

/-- A latched count of 0 is a count of 0: 40 does not wrap in six bits (R54). -/
theorem missingCount_eq_zero_of_latched (cfg : Config) (b : Block) (h : (latchFrame cfg b).resMissing = 0#6) :
    missingCount cfg b = 0 := by
  have hle := missingCount_le cfg b
  have := congrArg BitVec.toNat h
  simp only [latchFrame_resMissing, BitVec.toNat_ofNat] at this
  omega

/-- A configuration that gives the source's result admits the worked example: its durations 26, 74, 72 and 25 stand at
positions 0, 10, 15 and 31, whose bits the result's fields name. -/
theorem admits_of_workedResult (cfg : Config) (hwf : cfg.wf = true)
    (h : WorkedResult (latchFrame cfg workedExample)) : cfg.admitsWorkedExample = true := by
  obtain ⟨-, hmissing, hhum, htemp, -⟩ := h
  obtain ⟨-, -, -, hapart, -, -, -⟩ := cfg.wf_iff.1 hwf
  have hcount := missingCount_eq_zero_of_latched cfg workedExample hmissing
  rw [latchFrame_resHum] at hhum
  rw [latchFrame_resTemp] at htemp
  have h26 : cfg.shortMin ≤ 26 ∧ 26 ≤ cfg.shortMax :=
    short_of_bit cfg workedExample 0 (by decide) hcount (by rw [getElem_eq_humidityField _ 0 (by decide), hhum]; rfl)
  have h74 : cfg.longMin ≤ 74 ∧ 74 ≤ cfg.longMax :=
    long_of_bit cfg workedExample 10 (by decide) hapart (by rw [getElem_eq_humidityField _ 10 (by decide), hhum]; rfl)
  have h72 : cfg.longMin ≤ 72 ∧ 72 ≤ cfg.longMax :=
    long_of_bit cfg workedExample 15 (by decide) hapart (by rw [getElem_eq_humidityField _ 15 (by decide), hhum]; rfl)
  have h25 : cfg.shortMin ≤ 25 ∧ 25 ≤ cfg.shortMax :=
    short_of_bit cfg workedExample 31 (by decide) hcount
      (by rw [getElem_eq_temperatureField _ 15 (by decide), htemp]; rfl)
  simp only [Config.admitsWorkedExample, Bool.and_eq_true, decide_eq_true_eq]
  omega

/-- Settles O28: a configuration that admits the example gives the hardware's frame; one that gives the result has the
four outer durations in its windows. -/
theorem workedExampleDecodes : Obligations.WorkedExampleDecodes := by
  have hwf_hw : Config.hw.wf = true := by decide
  have hadmits_hw : Config.hw.admitsWorkedExample = true := by decide
  refine ⟨hwf_hw, hadmits_hw, fun cfg t hwf ht => ?_⟩
  subst ht
  constructor
  · intro hadmits
    rw [latchFrame_congr_classes cfg Config.hw _ (classes_workedExample cfg Config.hw hwf hwf_hw hadmits hadmits_hw)]
    exact workedResult_hw
  · exact admits_of_workedResult cfg hwf

end Sys2Proof.Machine
end

section
/-!
SUPPORT. The machine's step, by decoder and dispatch, is the step of R42 at the hardware's configuration, by row and
admission (spec/30_encoding.md R39, R42, spec/60_exceptions.md R76).
-/

namespace Sys2Proof.Machine

/-- The words the decoder takes are the legal ones (R39, R76). -/
theorem exists_decodeRequest_eq_ok_iff (r : Request) :
    (∃ i, decodeRequest r = .ok i)
      ↔ legalWord (rowOf (opField r.cmd)) (rsvField r.cmd) (idxField r.cmd) = true := by
  simp only [decodeRequest_eq_ok_iff]
  constructor
  · rintro ⟨_, m, hop, hrsv, hidx, rfl⟩
    simpa [← hop, hrsv, legalWord] using hidx
  · intro hlegal
    cases hrow : rowOf (opField r.cmd) with
    | none   => simp [hrow, legalWord] at hlegal
    | some m =>
      obtain ⟨hrsv, hidx⟩ : rsvField r.cmd = 0#5 ∧ (m.indexed = true ∨ idxField r.cmd = 0#6) := by
        simpa [hrow, legalWord] using hlegal
      exact ⟨_, m, (rowOf_eq_some_iff _ _).1 hrow, hrsv, hidx, rfl⟩

/-- An illegal word is rejected by a faulted block and faults an unfaulted one (R76). -/
theorem admission_of_not_legalWord {row : Option Mnemonic} {rsv : BitVec 5} {idx : Idx} (b : Block)
    (h : legalWord row rsv idx = false) :
    admission b row rsv idx = if b.faulted then .reject else .fault .illegalCommand := by
  simp [admission, h]

/-- The operands a command keeps are those its effect reads (R36, R37). -/
theorem perform_instr (cfg : Config) (m : Mnemonic) (idx : Idx) (v : Word) :
    perform cfg m (m.instr idx v).idx (m.instr idx v).wdata = perform cfg m idx v := by
  cases m <;> rfl

/-- Its index is the word's: a row without one has IDX 0 (R36). -/
theorem instr_idx {m : Mnemonic} {idx : Idx} (v : Word) (h : m.indexed = true ∨ idx = 0#6) :
    (m.instr idx v).idx = idx := by
  cases m with
  | sets | gets | seth | geth | setl | getl | getbit => rfl
  | clear | decode | valid | missing | humid | temp | rawtemp | parity | status =>
    exact (h.resolve_left (by decide)).symm

/-- Running a decoded command is R42's step on the request. -/
theorem exec_eq_blockStep {r : Request} {i : Instr} (s : State) (h : decodeRequest r = .ok i) :
    exec i s = .next { s with block    := (blockStep Config.hw s.block r).1
                              response := some (blockStep Config.hw s.block r).2 } := by
  obtain ⟨m, hop, hrsv, hidx, rfl⟩ := (decodeRequest_eq_ok_iff r i).1 h
  rw [exec_eq_serve, Mnemonic.instr_mnemonic, perform_instr, instr_idx _ hidx]
  simp only [blockStep, ← hop, rowOf_op, hrsv, serve]
  cases admission s.block (some m) 0#5 (idxField r.cmd) <;> rfl

/-- Taking an illegal word is R42's step on the request. -/
theorem serveIllegal_eq_blockStep {r : Request} {e : DecodeError} (s : State) (h : decodeRequest r = .error e) :
    serveIllegal s = .next { s with block    := (blockStep Config.hw s.block r).1
                                    response := some (blockStep Config.hw s.block r).2 } := by
  have hillegal : legalWord (rowOf (opField r.cmd)) (rsvField r.cmd) (idxField r.cmd) = false := by
    rw [← Bool.not_eq_true, ← exists_decodeRequest_eq_ok_iff, h]
    simp
  rw [blockStep, admission_of_not_legalWord _ hillegal, serveIllegal]
  cases s.block.faulted <;> rfl

/-- The machine is R42's at the hardware's configuration. -/
theorem step_eq_stepWith_hw (s : State) : step s = stepWith Config.hw s := by
  have hwf : Config.hw.wf ≠ false := by decide
  rw [step, stepWith, if_neg hwf]
  cases nextEvent s with
  | idle    => rfl
  | reset _ => rfl
  | request r s' =>
    cases hd : decodeRequest r with
    | ok i    => simpa only [hd] using exec_eq_blockStep s' hd
    | error e => simpa only [hd] using serveIllegal_eq_blockStep s' hd

/-- The block after a step on a request is the one R42's step gives. -/
theorem block_of_step_withRequest {s t : State} {r : Request} (h : step (s.withRequest r) = .next t) :
    t.block = (blockStep Config.hw s.block r).1 := by
  rw [step_eq_stepWith_hw, stepWith, if_neg (by decide), nextEvent_withRequest, Host.Outcome.next.injEq] at h
  rw [← h]

/-- Settles O50: the machine's step is the one at the hardware's configuration, which keeps the invariant. -/
theorem stepKeepsTheInvariant : Obligations.StepKeepsTheInvariant := by
  intro s t hs h
  rw [step_eq_stepWith_hw] at h
  exact stepAtAnyConfigurationKeepsTheInvariant Config.hw s t hs h

end Sys2Proof.Machine
end

section
/-!
SUPPORT. Which registers a request may write: the frame of each command, and the words it is performed for
(spec/10_state.md R8–R12, R14, R15, spec/30_encoding.md R38).
-/

namespace Sys2Proof.Machine

section
variable (cfg : Config) {m : Mnemonic} (idx : Idx) (v : Word) (b : Block) (hclear : m ≠ .clear)
include hclear

/-- Only SETS and CLEAR write `start` (R9). -/
theorem perform_start (h : m ≠ .sets) : (perform cfg m idx v b).1.start = b.start := by
  cases m with
  | sets   => exact absurd rfl h
  | clear  => exact absurd rfl hclear
  | decode => exact latchFrame_start cfg b
  | _      => rfl

/-- Only SETH and CLEAR write `high` (R10). -/
theorem perform_high (h : m ≠ .seth) : (perform cfg m idx v b).1.high = b.high := by
  cases m with
  | seth   => exact absurd rfl h
  | clear  => exact absurd rfl hclear
  | decode => exact latchFrame_high cfg b
  | _      => rfl

/-- Only SETL and CLEAR write `low` (R11). -/
theorem perform_low (h : m ≠ .setl) : (perform cfg m idx v b).1.low = b.low := by
  cases m with
  | setl   => exact absurd rfl h
  | clear  => exact absurd rfl hclear
  | decode => exact latchFrame_low cfg b
  | _      => rfl

/-- Only DECODE and CLEAR write the result registers and PHASE (R14, R15). -/
theorem perform_results (h : m ≠ .decode) :
    SameResults (perform cfg m idx v b).1 b ∧ (perform cfg m idx v b).1.phase = b.phase := by
  cases m with
  | decode => exact absurd rfl h
  | clear  => exact absurd rfl hclear
  | _      => exact ⟨⟨rfl, rfl, rfl, rfl, rfl, rfl⟩, rfl⟩

end

/-- An admitted word is legal (R76). -/
theorem legalWord_of_admitted {b : Block} {row : Option Mnemonic} {rsv : BitVec 5} {idx : Idx}
    (h : admission b row rsv idx = .admitted) : legalWord row rsv idx = true := by
  by_contra hl
  rw [admission_of_not_legalWord b (by simpa using hl)] at h
  split at h <;> cases h

/-- An admitted index is below its row's limit (R38, R76). -/
theorem idx_lt_of_admitted {b : Block} {m : Mnemonic} {rsv : BitVec 5} {idx : Idx} {n : Nat}
    (h : admission b (some m) rsv idx = .admitted) (hn : m.limit = some n) : idx.toNat < n := by
  unfold admission at h
  split_ifs at h with _ hstatus _ hout
  · obtain ⟨-, rfl⟩ : legalWord (some m) rsv idx = true ∧ m = .status := by simpa using hstatus
    cases hn
  · simpa [indexOut, hn] using hout

/-- The word an admitted command came with: its row's OP, RSV = 0 and its IDX (R34, R38). -/
theorem cmd_eq_append_of_admitted {b : Block} {m : Mnemonic} {c : Cmd} (hrow : rowOf (opField c) = some m)
    (h : admission b (some m) (rsvField c) (idxField c) = .admitted) : c = m.op ++ 0#5 ++ idxField c := by
  obtain ⟨hrsv, -⟩ : rsvField c = 0#5 ∧ (m.indexed = true ∨ idxField c = 0#6) := by
    simpa [legalWord] using legalWord_of_admitted h
  rw [← hrsv, (rowOf_eq_some_iff _ _).1 hrow, append_fields]

/-- On a row with an index, the word is one of those with a legal index (R38, R76). -/
theorem cmd_range_of_admitted {b : Block} {m : Mnemonic} {c : Cmd} {n : Nat} (hrow : rowOf (opField c) = some m)
    (h : admission b (some m) (rsvField c) (idxField c) = .admitted) (hn : m.limit = some n) :
    2048 * m.op.toNat ≤ c.toNat ∧ c.toNat < 2048 * m.op.toNat + n := by
  have hword := congrArg BitVec.toNat (cmd_eq_append_of_admitted hrow h)
  rw [append_toNat, BitVec.toNat_ofNat] at hword
  have hlt := idx_lt_of_admitted h hn
  omega

/-- On a row without an index, the word is the row's one word (R36, R38). -/
theorem cmd_eq_matchWord_of_admitted {b : Block} {m : Mnemonic} {c : Cmd} (hrow : rowOf (opField c) = some m)
    (h : admission b (some m) (rsvField c) (idxField c) = .admitted) (hm : m.indexed = false) : c = m.matchWord := by
  obtain ⟨-, hidx⟩ : rsvField c = 0#5 ∧ idxField c = 0#6 := by
    simpa [legalWord, hm] using legalWord_of_admitted h
  rw [cmd_eq_append_of_admitted hrow h, ← Mnemonic.matchWord_add_idx, hidx]
  simp

/-- Settles O47: a request rejected or faulted writes the fault register at most, and one performed came with a word of
its row. -/
theorem onlyNamedCommandsWriteEachRegister : Obligations.OnlyNamedCommandsWriteEachRegister := by
  intro s t r ht hcmd
  rw [block_of_step_withRequest ht]
  rcases blockStep_cases Config.hw s.block r with ⟨-, h⟩ | ⟨c, -, h⟩ | ⟨m, hrow, hadmitted, h⟩ <;> rw [h]
  · exact ⟨fun _ => rfl, fun _ => rfl, fun _ => rfl, fun _ => ⟨⟨rfl, rfl, rfl, rfl, rfl, rfl⟩, rfl⟩⟩
  · exact ⟨fun _ => rfl, fun _ => rfl, fun _ => rfl, fun _ => ⟨⟨rfl, rfl, rfl, rfl, rfl, rfl⟩, rfl⟩⟩
  · have hclear : m ≠ .clear := by
      rintro rfl
      exact hcmd (cmd_eq_matchWord_of_admitted hrow hadmitted rfl)
    refine ⟨fun hout => perform_start _ _ _ _ hclear ?_, fun hout => perform_high _ _ _ _ hclear ?_,
      fun hout => perform_low _ _ _ _ hclear ?_, fun hout => perform_results _ _ _ _ hclear ?_⟩ <;> rintro rfl
    · exact hout ((cmd_range_of_admitted hrow hadmitted rfl).imp_right Nat.le_of_lt_succ)
    · exact hout ((cmd_range_of_admitted hrow hadmitted rfl).imp_right Nat.le_of_lt_succ)
    · exact hout ((cmd_range_of_admitted hrow hadmitted rfl).imp_right Nat.le_of_lt_succ)
    · exact hout (cmd_eq_matchWord_of_admitted hrow hadmitted rfl)

end Sys2Proof.Machine
end

section
/-!
SUPPORT. The reads and writes of the durations as the machine performs them, at the hardware's width
(spec/10_state.md R8, spec/40_buffer_access.md R45–R50).
-/

namespace Sys2Proof.Machine

/-! An entry read after a write: the value written at its index, what stood there at every other (R8). -/

theorem readStart_writeStart (b : Block) {i : Nat} (j : Nat) (v : Duration) (hi : i < 3) :
    readStart (writeStart b i v) j = if i = j then v else readStart b j := by
  rw [readStart, writeStart_start, Vector.getElem?_setIfInBounds, if_pos hi]
  split <;> rfl

theorem readHigh_writeHigh (b : Block) {i : Nat} (j : Nat) (v : Duration) (hi : i < 40) :
    readHigh (writeHigh b i v) j = if i = j then v else readHigh b j := by
  rw [readHigh, writeHigh_high, Vector.getElem?_setIfInBounds, if_pos hi]
  split <;> rfl

theorem readLow_writeLow (b : Block) {i : Nat} (j : Nat) (v : Duration) (hi : i < 40) :
    readLow (writeLow b i v) j = if i = j then v else readLow b j := by
  rw [readLow, writeLow_low, Vector.getElem?_setIfInBounds, if_pos hi]
  split <;> rfl

/-! Every entry of a fresh buffer is 0 (R8, R86). -/

theorem readStart_reset {i : Nat} (hi : i < 3) : readStart Block.reset i = 0#32 := by
  simp [readStart_of_lt _ _ hi, Block.reset]

theorem readHigh_reset {p : Nat} (hp : p < 40) : readHigh Block.reset p = 0#32 := by
  simp [readHigh_of_lt _ _ hp, Block.reset]

theorem readLow_reset {p : Nat} (hp : p < 40) : readLow Block.reset p = 0#32 := by
  simp [readLow_of_lt _ _ hp, Block.reset]

section
variable (s : State) {i : Idx} (hf : s.block.faulted = false)
include hf

/-! A read at a legal index answers the entry and changes no register (R46, R48, R50). -/

theorem exec_gets_of_lt (hi : i.toNat < 3) : exec (.gets i) s = .next (s.answers (readStart s.block i.toNat)) := by
  rw [← zext32_word (readStart s.block _)]
  exact exec_of_admissible (.gets i) s hf (admissible_of_lt rfl rfl hi)

theorem exec_geth_of_lt (hi : i.toNat < 40) : exec (.geth i) s = .next (s.answers (readHigh s.block i.toNat)) := by
  rw [← zext32_word (readHigh s.block _)]
  exact exec_of_admissible (.geth i) s hf (admissible_of_lt rfl rfl hi)

theorem exec_getl_of_lt (hi : i.toNat < 40) : exec (.getl i) s = .next (s.answers (readLow s.block i.toNat)) := by
  rw [← zext32_word (readLow s.block _)]
  exact exec_of_admissible (.getl i) s hf (admissible_of_lt rfl rfl hi)

/-! A write at a legal index in CAPTURE stores the data word (R45, R47, R49). -/

theorem exec_sets_of_lt (v : Word) (hp : s.block.phase = .capture) (hi : i.toNat < 3) :
    exec (.sets i v) s = .next (s.becomes (writeStart s.block i.toNat v)) := by
  conv_rhs => rw [← Config.clip_hw v]
  exact exec_of_admissible (.sets i v) s hf (admissible_of_lt_of_phase rfl (hp ▸ rfl) hi)

theorem exec_seth_of_lt (v : Word) (hp : s.block.phase = .capture) (hi : i.toNat < 40) :
    exec (.seth i v) s = .next (s.becomes (writeHigh s.block i.toNat v)) := by
  conv_rhs => rw [← Config.clip_hw v]
  exact exec_of_admissible (.seth i v) s hf (admissible_of_lt_of_phase rfl (hp ▸ rfl) hi)

theorem exec_setl_of_lt (v : Word) (hp : s.block.phase = .capture) (hi : i.toNat < 40) :
    exec (.setl i v) s = .next (s.becomes (writeLow s.block i.toNat v)) := by
  conv_rhs => rw [← Config.clip_hw v]
  exact exec_of_admissible (.setl i v) s hf (admissible_of_lt_of_phase rfl (hp ▸ rfl) hi)

end

/-- A command reads a duration file of `n` entries: at every legal index of an unfaulted block it answers the entry. -/
def ReadsFile (n : Nat) (get : Idx → Instr) (read : Block → Nat → Duration) : Prop :=
  ∀ (s : State) (j : Idx), s.block.faulted = false → j.toNat < n →
    exec (get j) s = .next (s.answers (read s.block j.toNat))

theorem readsFile_gets : ReadsFile 3 .gets readStart := fun s _ => exec_gets_of_lt s

theorem readsFile_geth : ReadsFile 40 .geth readHigh := fun s _ => exec_geth_of_lt s

theorem readsFile_getl : ReadsFile 40 .getl readLow := fun s _ => exec_getl_of_lt s

/-- After a write of one entry of a file, its read answers the value written at that index and what it answered before
at every other (R8). -/
theorem ReadsFile.after_write {n : Nat} {get : Idx → Instr} {read : Block → Nat → Duration}
    (hget : ReadsFile n get read) {s : State} {b : Block} {i : Idx} {v : Word} (hf : s.block.faulted = false)
    (hfb : b.faulted = false) (hi : i.toNat < n)
    (hread : ∀ j, read b j = if i.toNat = j then v else read s.block j) :
    exec (get i) (s.becomes b) = .next ((s.becomes b).answers v)
      ∧ ∀ j : Idx, j.toNat < n → j ≠ i → ∃ x, exec (get j) (s.becomes b) = .next ((s.becomes b).answers x)
          ∧ exec (get j) s = .next (s.answers x) := by
  constructor
  · rw [hget _ _ hfb hi, becomes_block, hread, if_pos rfl]
  · intro j hj hne
    refine ⟨read s.block j.toNat, ?_, hget _ _ hf hj⟩
    rw [hget _ _ hfb hj, becomes_block, hread, if_neg fun h => hne (BitVec.eq_of_toNat_eq h.symm)]

/-- Settles O21: the write has its effect, and each file's read is that of the entry. -/
theorem writtenDurationIsReadBack : Obligations.WrittenDurationIsReadBack := by
  intro s v hf hp
  refine ⟨fun i hi => ?_, fun i hi => ?_, fun i hi => ?_⟩
  · exact ⟨_, exec_sets_of_lt s hf v hp hi,
      readsFile_gets.after_write hf hf hi fun j => readStart_writeStart _ j v hi⟩
  · exact ⟨_, exec_seth_of_lt s hf v hp hi,
      readsFile_geth.after_write hf hf hi fun j => readHigh_writeHigh _ j v hi⟩
  · exact ⟨_, exec_setl_of_lt s hf v hp hi,
      readsFile_getl.after_write hf hf hi fun j => readLow_writeLow _ j v hi⟩

/-- Settles O13: the reads are performed at reset, where every entry is 0. -/
theorem freshBufferReadsZero : Obligations.FreshBufferReadsZero := by
  refine fun i => ⟨fun hi => ?_, fun hi => ⟨?_, ?_⟩⟩
  · rw [exec_gets_of_lt State.reset rfl hi, ← readStart_reset hi]
    rfl
  · rw [exec_geth_of_lt State.reset rfl hi, ← readHigh_reset hi]
    rfl
  · rw [exec_getl_of_lt State.reset rfl hi, ← readLow_reset hi]
    rfl

end Sys2Proof.Machine
end

section
/-!
SUPPORT. What the frame depends on when there is no reference window (spec/10_state.md R10, spec/41_decode.md R52).
-/

namespace Sys2Proof.Machine

/-- Without a reference window the reference duration is not looked at (R52). -/
theorem classify_of_refWindow_none {cfg : Config} (h : cfg.refWindow = none) (d r r' : Duration) :
    classify cfg d r = classify cfg d r' := by
  simp only [classify, referenceOk, h]

/-- Then the classes are a function of the data-phase durations (R10, R51). -/
theorem classes_of_low_eq {cfg : Config} {a b : Block} (h : cfg.refWindow = none) (hlow : a.low = b.low) :
    classes cfg a = classes cfg b := by
  ext p hp
  rw [classes_get _ _ _ hp, classes_get _ _ _ hp, hlow]
  exact classify_of_refWindow_none h _ _ _

/-- The frame is a function of the classes (R53–R61). -/
theorem sameResults_of_classes_eq {cfg : Config} {a b : Block} (h : classes cfg a = classes cfg b) :
    SameResults (latchFrame cfg a) (latchFrame cfg b) := by
  have hbits : decodedBits cfg a = decodedBits cfg b := by simp only [decodedBits, h]
  have hmissing : missingCount cfg a = missingCount cfg b := by simp only [missingCount, h]
  simp only [SameResults, latchFrame_resBit, latchFrame_resMissing, latchFrame_resHum, latchFrame_resTemp,
    latchFrame_resParity, latchFrame_resValid, hbits, hmissing, and_self]

/-- DECODE of an unfaulted block is performed in either phase (R63). -/
theorem exec_decode_of_unfaulted (s : State) (hf : s.block.faulted = false) :
    exec .decode s = .next (s.becomes (latchFrame Config.hw s.block)) :=
  exec_of_admissible .decode s hf ⟨nofun, nofun⟩

/-- Settles O30: without a reference window the classes are those of the data phase, and the frame is made of them. -/
theorem frameDependsOnDataPhaseAlone : Obligations.FrameDependsOnDataPhaseAlone := by
  refine ⟨fun cfg a b href hlow => sameResults_of_classes_eq (classes_of_low_eq href hlow),
    fun s t hs ht hlow => ⟨_, _, exec_decode_of_unfaulted s hs, exec_decode_of_unfaulted t ht, ?_⟩⟩
  exact sameResults_of_classes_eq (classes_of_low_eq rfl hlow)

end Sys2Proof.Machine
end

section
/-!
SUPPORT. STATUS and the status word, and the illegal forms of a row without an index (spec/10_state.md R17,
spec/30_encoding.md R39, spec/42_results.md R73).
-/

namespace Sys2Proof.Machine

/-- The status word as a number: the layout's fields at bits 0, 1 and 4 (R17). -/
theorem statusWord_eq (b : Block) :
    statusWord b = BitVec.ofNat 32
      ((if b.phase = .decoded then 1 else 0) + (if b.faulted then 2 else 0) + 16 * b.cause.toNat) := by
  apply BitVec.eq_of_toNat_eq
  have hphase : b.phase.bit.toNat = if b.phase = .decoded then 1 else 0 := by cases b.phase <;> rfl
  have hfaulted : (bitOf b.faulted).toNat = if b.faulted then 1 else 0 := by cases b.faulted <;> rfl
  rw [statusWord, zext32, BitVec.toNat_setWidth, BitVec.toNat_append, BitVec.toNat_append, BitVec.toNat_append,
    ← Nat.shiftLeft_add_eq_or_of_lt (Phase.bit _).isLt, ← Nat.shiftLeft_add_eq_or_of_lt (bitOf _).isLt,
    ← Nat.shiftLeft_add_eq_or_of_lt (0#2).isLt, hphase, hfaulted, BitVec.toNat_ofNat]
  simp only [Nat.shiftLeft_eq, BitVec.toNat_ofNat]
  split <;> split <;> omega

/-- STATUS is admitted in every state (R73, R78). -/
theorem exec_status (s : State) : exec .status s = .next (s.answers (statusWord s.block)) := by
  cases hf : s.block.faulted with
  | false => exact exec_of_admissible .status s hf ⟨nofun, nofun⟩
  | true =>
    rw [exec_eq_serve]
    exact serve_admitted _ _ _ _ ((admission_faulted _ .status _ hf (.inr rfl)).trans (if_pos rfl))

/-- A word the decoder takes as no command faults with cause 2, or is rejected by a faulted block (R39, R78). -/
theorem refusesWord_of_not_decoded (s : State) {r : Request} (h : ∀ i, decodeRequest r ≠ .ok i) :
    RefusesWord s r := by
  cases hd : decodeRequest r with
  | ok i    => exact absurd hd (h i)
  | error e =>
    rw [RefusesWord, step_withRequest_error s r e hd, serveIllegal]
    constructor <;> intro hf <;> rw [hf] <;> rfl

/-- A row's word with RSV = 0 and an index it allows is its command (R34, R39). -/
theorem decodeRequest_append (m : Mnemonic) (i : Idx) (v : Word) (hi : m.indexed = true ∨ i = 0#6) :
    decodeRequest ⟨m.op ++ 0#5 ++ i, v⟩ = .ok (m.instr i v) :=
  (decodeRequest_eq_ok_iff _ _).2 ⟨m, by simpa using hi⟩

/-- The word of a row without an index is illegal with RSV or IDX not 0 (R39). -/
theorem refusesWord_of_illegalFixedForm (s : State) {r : Request} (m : Mnemonic) (hm : m.indexed = false)
    (h : IllegalFixedForm m.op.toNat r.cmd) : RefusesWord s r := by
  obtain ⟨hop, hform⟩ := h
  refine refusesWord_of_not_decoded s fun i hi => hform ?_
  obtain ⟨m', hop', hrsv, hidx, -⟩ := (decodeRequest_eq_ok_iff r i).1 hi
  obtain rfl : m = m' := by
    have hrow : opField r.cmd = m.op := BitVec.eq_of_toNat_eq (by rw [opField_toNat, hop])
    rw [← Option.some_inj, ← rowOf_op m, ← rowOf_op m', hop', hrow]
  have hrsv' := congrArg BitVec.toNat hrsv
  have hidx' := congrArg BitVec.toNat (hidx.resolve_left (by simp [hm]))
  rw [rsvField_toNat, BitVec.toNat_ofNat] at hrsv'
  rw [idxField_toNat, BitVec.toNat_ofNat] at hidx'
  omega

/-- Settles O40: STATUS is admitted whether faulted or not, and its row has no index. -/
theorem statusReadsTheStatusWord : Obligations.StatusReadsTheStatusWord := by
  refine ⟨fun w => ?_, fun s => ⟨?_, fun r h => ?_⟩⟩
  · exact decodeRequest_append .status 0#6 w (.inr rfl)
  · rw [exec_status, statusWord_eq]
  · exact refusesWord_of_illegalFixedForm s .status rfl h

end Sys2Proof.Machine
end

section
/-!
SUPPORT. What a read command can do: it answers, is rejected by a faulted block, or takes a fault, and it leaves every
other register (spec/20_memory.md R27).
-/

namespace Sys2Proof

/-- The rows of the eleven read commands (R27). -/
abbrev Mnemonic.reads : List Mnemonic :=
  [.gets, .geth, .getl, .valid, .missing, .getbit, .humid, .temp, .rawtemp, .parity, .status]

namespace Machine

/-- A request is rejected by a faulted block alone (R76, R78). -/
theorem faulted_of_admission_reject {b : Block} {row : Option Mnemonic} {rsv : BitVec 5} {idx : Idx}
    (h : admission b row rsv idx = .reject) : b.faulted = true := by
  by_contra hf
  unfold admission at h
  rw [if_neg hf] at h
  split_ifs at h

/-- A read performed leaves the block as it was (R27). -/
theorem perform_block_of_read (cfg : Config) {m : Mnemonic} (idx : Idx) (v : Word) (b : Block)
    (hm : m ∈ Mnemonic.reads) : (perform cfg m idx v b).1 = b := by
  cases m with
  | sets | seth | setl | clear | decode => exact absurd hm (by decide)
  | gets | geth | getl | valid | missing | getbit | humid | temp | rawtemp | parity | status => rfl

/-- The outcomes of a read: a faulted block rejects it, it faults, or it answers and changes no register (R27, R42). -/
theorem exec_read_cases (s : State) {i : Instr} (hi : i.mnemonic ∈ Mnemonic.reads) :
    (s.block.faulted = true ∧ exec i s = .next s.reject)
      ∨ (∃ c, exec i s = .next (s.takeFault c))
      ∨ (∃ w, exec i s = .next (s.answers w)) := by
  rw [exec_eq_serve]
  cases hv : admission s.block (some i.mnemonic) 0#5 i.idx with
  | reject   => exact .inl ⟨faulted_of_admission_reject hv, serve_reject _ _ _ _ hv⟩
  | fault c  => exact .inr (.inl ⟨c, serve_fault _ _ _ _ c hv⟩)
  | admitted =>
    rw [serve_admitted _ _ _ _ hv, State.complete, perform_block_of_read _ _ _ _ hi]
    exact .inr (.inr ⟨_, rfl⟩)

/-- Settles O48: a rejected read finds FAULTED already 1, a fault writes the fault register alone, and an answered read
leaves the block. -/
theorem readsHaveNoSideEffect : Obligations.ReadsHaveNoSideEffect := by
  intro s i hi
  rcases exec_read_cases s hi with ⟨hf, h⟩ | ⟨c, h⟩ | ⟨w, h⟩
  · refine ⟨_, h, rfl, by simp, fun _ => ?_⟩
    rw [← hf]
    rfl
  · exact ⟨_, h, rfl, by simp, fun _ => rfl⟩
  · exact ⟨_, h, rfl, fun _ => rfl, by simp⟩

end Machine

end Sys2Proof
end

section
/-!
SUPPORT. Decoding and encoding are inverse to each other, a row's words are those with its match under its mask, and the
data word is an operand of the three SETs alone (spec/30_encoding.md R34, R36–R38, R40).
-/

namespace Sys2Proof.Machine

/-- A command is its row's command with its own operands (R36, R37). -/
theorem mnemonic_instr (i : Instr) : i.mnemonic.instr i.idx i.wdata = i := by cases i <;> rfl

/-- Settles O1: the encoded word has RSV = 0, and IDX = 0 on a row without an index. -/
theorem decodeOfEncodeIsTheCommand : Obligations.DecodeOfEncodeIsTheCommand := fun i =>
  (decodeRequest_append i.mnemonic i.idx i.wdata (indexed_or_idx_zero i)).trans (by rw [mnemonic_instr])

/-- A request that decodes has its row's OP, RSV = 0, and an index the row allows (R34, R38, R39). -/
theorem decodeRequest_eq_ok_iff_append (r : Request) (i : Instr) :
    decodeRequest r = .ok i ↔
      ∃ (m : Mnemonic) (idx : Idx), (m.indexed = true ∨ idx = 0#6) ∧ r.cmd = m.op ++ 0#5 ++ idx
        ∧ i = m.instr idx r.wdata := by
  constructor
  · intro h
    obtain ⟨m, hop, hrsv, hidx, hi⟩ := (decodeRequest_eq_ok_iff r i).1 h
    exact ⟨m, idxField r.cmd, hidx, by rw [hop, ← hrsv, append_fields], hi⟩
  · rintro ⟨m, idx, hidx, hcmd, rfl⟩
    rw [← decodeRequest_append m idx r.wdata hidx, ← hcmd]

/-- The words of the three SETs are those of the rows that take a value (R37, R38). -/
theorem setWord_append_iff (m : Mnemonic) (idx : Idx) : SetWord (m.op ++ 0#5 ++ idx) ↔ storesValue m = true := by
  have hidx := idx.isLt
  rw [SetWord, append_toNat, BitVec.toNat_ofNat]
  cases m with
  | sets | seth | setl =>
    simp only [Mnemonic.op, storesValue, BitVec.toNat_ofNat, iff_true]
    omega
  | gets | geth | getl | clear | decode | valid | missing | getbit | humid | temp | rawtemp | parity | status =>
    simp only [Mnemonic.op, storesValue, BitVec.toNat_ofNat, Bool.false_eq_true, iff_false]
    omega

/-- A command keeps the data word on the rows that take a value, and has none but 0 on the others (R37). -/
theorem instr_wdata (m : Mnemonic) (idx : Idx) (v : Word) :
    (m.instr idx v).wdata = if storesValue m then v else 0#32 := by
  cases m <;> rfl

/-- A command of a row that takes no value is the same whatever the data word (R37). -/
theorem instr_of_not_stores {m : Mnemonic} (idx : Idx) (v w : Word) (h : storesValue m = false) :
    m.instr idx v = m.instr idx w := by
  cases m with
  | sets | seth | setl => cases h
  | gets | geth | getl | clear | decode | valid | missing | getbit | humid | temp | rawtemp | parity | status => rfl

/-- Settles O2: the command keeps the word's OP and IDX, and RSV is 0 in both words. -/
theorem encodeOfDecodeIsTheWord : Obligations.EncodeOfDecodeIsTheWord := by
  intro r i h
  obtain ⟨m, idx, hidx, hcmd, rfl⟩ := (decodeRequest_eq_ok_iff_append r i).1 h
  refine ⟨?_, fun hset => ?_⟩
  · rw [encode, Mnemonic.instr_mnemonic, instr_idx _ hidx, hcmd]
  · rw [hcmd, setWord_append_iff] at hset
    exact (instr_wdata m idx r.wdata).trans (if_pos hset)

/-- Outside the SETs the data word has no part in decoding (R37). -/
theorem decodeRequest_of_not_setWord {c : Cmd} (v w : Word) (h : ¬ SetWord c) :
    decodeRequest ⟨c, v⟩ = decodeRequest ⟨c, w⟩ := by
  unfold decodeRequest
  cases hrow : rowOf (opField c) with
  | none   => rfl
  | some m =>
    by_cases hrsv : rsvField c = 0#5
    · have hstores : storesValue m = false := by
        rwa [← append_fields c, hrsv, ← (rowOf_eq_some_iff _ _).1 hrow, setWord_append_iff, Bool.not_eq_true] at h
      simp only [instr_of_not_stores _ v w hstores]
    · simp only [if_pos hrsv]

/-- Settles O49: the step sees the data word through the decoded command alone. -/
theorem dataWordOfOtherCommandsIsIgnored : Obligations.DataWordOfOtherCommandsIsIgnored := by
  intro s c v w h
  rw [step, step, nextEvent_withRequest, nextEvent_withRequest]
  simp only [decodeRequest_of_not_setWord v w h]

/-- A row's match is its OP with RSV = 0 and IDX = 0 (R38). -/
theorem matchWord_eq_append (m : Mnemonic) : m.matchWord = m.op ++ 0#5 ++ 0#6 := by
  simpa using m.matchWord_add_idx 0#6

/-- A row's mask keeps OP and RSV, and IDX on a row without an index (R38). -/
theorem and_mask (m : Mnemonic) (c : Cmd) :
    c &&& m.mask = opField c ++ rsvField c ++ (if m.indexed then 0#6 else idxField c) := by
  have hmask : m.mask = BitVec.allOnes 5 ++ BitVec.allOnes 5 ++ (if m.indexed then 0#6 else BitVec.allOnes 6) := by
    cases m <;> rfl
  conv_lhs =>
    rw [← append_fields c, hmask, BitVec.and_append, BitVec.and_append, BitVec.and_allOnes, BitVec.and_allOnes]
  split
  · rw [BitVec.and_zero]
  · rw [BitVec.and_allOnes]

/-- Settles O3: the masked word and the match agree field by field, which is what the decoder asks. -/
theorem rowIsChosenByMatchAndMask : Obligations.RowIsChosenByMatchAndMask := by
  intro r m
  rw [and_mask, matchWord_eq_append]
  constructor
  · rintro ⟨i, hi, rfl⟩
    obtain ⟨m, idx, hidx, hcmd, rfl⟩ := (decodeRequest_eq_ok_iff_append r i).1 hi
    rw [Mnemonic.instr_mnemonic, hcmd, opField_append, rsvField_append, idxField_append]
    rcases hidx with h | h <;> simp [h]
  · intro h
    have hop : opField r.cmd = m.op := by simpa using congrArg opField h
    have hrsv : rsvField r.cmd = 0#5 := by simpa using congrArg rsvField h
    have hidx : (if m.indexed then 0#6 else idxField r.cmd) = 0#6 := by simpa using congrArg idxField h
    refine ⟨_, (decodeRequest_eq_ok_iff r _).2 ⟨m, hop.symm, hrsv, ?_, rfl⟩, Mnemonic.instr_mnemonic _ _ _⟩
    cases hm : m.indexed with
    | true  => exact .inl rfl
    | false => exact .inr (by simpa [hm] using hidx)

end Sys2Proof.Machine
end

section
/-!
SUPPORT. The illegal words, their number, and the words of the opcode map as numbers (spec/30_encoding.md R39).
-/

namespace Sys2Proof.Machine

/-- A request either decodes or has an illegal word (R39). -/
theorem exists_decodeRequest_eq_error_iff (r : Request) :
    (∃ e, decodeRequest r = .error e) ↔ ¬ ∃ i, decodeRequest r = .ok i := by
  cases decodeRequest r <;> simp

/-- An OP has no row exactly when it is 0 or at least 0x11 (R38). -/
theorem rowOf_eq_none_iff (op : BitVec 5) : rowOf op = none ↔ op.toNat = 0 ∨ 0x11 ≤ op.toNat := by
  revert op
  decide

/-- The OPs of the seven rows with an index (R38). -/
abbrev indexedOps : List Nat := [0x01, 0x02, 0x03, 0x04, 0x05, 0x06, 0x0B]

/-- The OPs of the nine rows without one (R38). -/
abbrev fixedOps : List Nat := [0x07, 0x08, 0x09, 0x0A, 0x0C, 0x0D, 0x0E, 0x0F, 0x10]

/-- A row has no index exactly when its OP is one of the nine (R38). -/
theorem indexed_eq_false_iff (m : Mnemonic) : m.indexed = false ↔ m.op.toNat ∈ fixedOps := by
  cases m <;> decide

/-- The three ways a word is illegal, by its fields as numbers (R39). -/
theorem legalWord_rowOf_eq_false_iff (op rsv : BitVec 5) (idx : Idx) :
    legalWord (rowOf op) rsv idx = false ↔
      op.toNat = 0 ∨ 0x11 ≤ op.toNat ∨ rsv.toNat ≠ 0 ∨ (op.toNat ∈ fixedOps ∧ idx.toNat ≠ 0) := by
  have hnone := rowOf_eq_none_iff op
  cases hrow : rowOf op with
  | none   => exact iff_of_true rfl (by tauto)
  | some m =>
    have hm := indexed_eq_false_iff m
    rw [(rowOf_eq_some_iff op m).1 hrow] at hm
    rw [← or_assoc, ← hnone, ← hm]
    simp [hrow, legalWord, ← BitVec.toNat_inj, imp_iff_not_or]

/-- The words the decoder refuses, by the command word as a number (R34, R39). -/
theorem decodeRequest_eq_error_iff_toNat (r : Request) :
    (∃ e, decodeRequest r = .error e) ↔
      (r.cmd.toNat / 2048 = 0 ∨ 0x11 ≤ r.cmd.toNat / 2048 ∨ r.cmd.toNat / 64 % 32 ≠ 0
        ∨ (r.cmd.toNat / 2048 ∈ fixedOps ∧ r.cmd.toNat % 64 ≠ 0)) := by
  rw [exists_decodeRequest_eq_error_iff, exists_decodeRequest_eq_ok_iff, Bool.not_eq_true,
    legalWord_rowOf_eq_false_iff, opField_toNat, rsvField_toNat, idxField_toNat]

/-- The words of an indexed row as a run of numbers (R38). -/
theorem mem_map_add_range_iff (w k n : Nat) : n ∈ (List.range k).map (w + ·) ↔ w ≤ n ∧ n < w + k := by
  rw [← List.range'_eq_map_range, List.mem_range'_1]

/-- The listed words, by OP: an index of six bits on the seven indexed rows, no index on the other nine (R38, R39). -/
theorem mem_tableWords_iff (n : Nat) :
    n ∈ tableWords ↔
      (n / 2048 ∈ indexedOps ∧ n % 2048 < 64) ∨ (n / 2048 ∈ fixedOps ∧ n % 2048 = 0) := by
  simp only [tableWords, List.mem_append, List.mem_flatMap, mem_map_add_range_iff, List.mem_cons, List.not_mem_nil,
    or_false, exists_eq_or_imp, exists_eq_left]
  omega

/-- Seven runs of 64 words that begin at different OPs, and nine more words (R39). -/
theorem tableWords_nodup : tableWords.Nodup := by
  rw [tableWords, List.nodup_append, List.nodup_flatMap]
  refine ⟨⟨fun w _ => List.nodup_range.map (add_right_injective w), ?_⟩, by decide, ?_⟩
  · have hapart : [0x0800, 0x1000, 0x1800, 0x2000, 0x2800, 0x3000, 0x5800].Pairwise (fun v w => v + 64 ≤ w) := by
      decide
    refine hapart.imp fun hvw n hv hw => ?_
    rw [mem_map_add_range_iff] at hv hw
    omega
  · intro a ha b hb
    simp only [List.mem_flatMap, mem_map_add_range_iff, List.mem_cons, List.not_mem_nil, or_false] at ha hb
    omega

/-- The decoder reads a number of 16 bits as a command exactly when it is listed (R38, R39). -/
theorem isSome_decodeTableWord_iff {n : Nat} (hn : n < 65536) :
    (decodeTableWord 16 n).isSome = true ↔ n ∈ tableWords := by
  have hsome : (decodeTableWord 16 n).isSome = true ↔ ¬ ∃ e, decodeRequest (requestOfTableWord 16 n) = .error e := by
    rw [decodeTableWord]
    cases decodeRequest (requestOfTableWord 16 n) <;> simp
  have hcmd : (requestOfTableWord 16 n).cmd.toNat = n := by
    simp only [requestOfTableWord, BitVec.toNat_ofNat]
    omega
  rw [hsome, decodeRequest_eq_error_iff_toNat, hcmd, mem_tableWords_iff]
  simp only [List.mem_cons, List.not_mem_nil, or_false]
  omega

/-- Settles O4: the decoder refuses what admission calls illegal, and the legal words are the listed ones. -/
theorem illegalWordsFaultOrAreRejected : Obligations.IllegalWordsFaultOrAreRejected := by
  refine ⟨decodeRequest_eq_error_iff_toNat, fun r e s h => refusesWord_of_not_decoded s fun i hi => ?_,
    fun n => isSome_decodeTableWord_iff, by simp [tableWords], tableWords_nodup, by simp [tableWords]⟩
  rw [h] at hi
  cases hi

end Sys2Proof.Machine
end

section
/-!
SUPPORT. A step on a request, and that a step always answers (spec/30_encoding.md R42).
-/

namespace Sys2Proof.Machine

/-- Settles O6: such a machine is one with the request placed at the head of the rest of its script. -/
theorem stepRunsTheDecodedCommand : Obligations.StepRunsTheDecodedCommand := by
  rintro ⟨b, script, response⟩ r rest i hscript hdecode -
  obtain rfl : script = .request r :: rest := hscript
  exact step_withRequest_ok ⟨b, rest, response⟩ r i hdecode

/-- Settles O7: the machine is the one at the hardware's configuration, whose step on a request is R42's. -/
theorem stepRefinesTheCommandStep : Obligations.StepRefinesTheCommandStep := by
  rintro ⟨b, script, response⟩ r rest hscript
  obtain rfl : script = .request r :: rest := hscript
  rw [step_eq_stepWith_hw, stepWith, if_neg (by decide)]
  rfl

/-- Settles O8: the hardware's configuration is well formed, so its step answers. -/
theorem stepAlwaysAnswersNext : Obligations.StepAlwaysAnswersNext := by
  intro s
  obtain ⟨-, -, -, hanswers⟩ := brokenConfigurationIsRefused
  rw [step_eq_stepWith_hw]
  exact hanswers Config.hw s (by decide)

end Sys2Proof.Machine
end

section
/-!
SUPPORT. The assembler: the lines it takes, what it refuses them for, and the pseudo-instructions
(spec/30_encoding.md R43, log entry 11).
-/

namespace Sys2Proof.Machine

/-! The operands: an index is at most 63, a value has at most `DUR_WIDTH` bits. -/

theorem asmIndex_of_le {n : Nat} (h : n ≤ 63) : asmIndex (.decimal n) = .ok (BitVec.ofNat 6 n) := if_pos h

theorem asmIndex_of_lt {n : Nat} (h : 63 < n) : asmIndex (.decimal n) = .error .badIndex := if_neg (Nat.not_le.2 h)

/-- The value a number writes, decimal or hex. -/
def AsmNumber.value : AsmNumber → Nat
  | .decimal n => n
  | .hex n     => n

theorem asmValue_eq (cfg : Config) (x : AsmNumber) :
    asmValue cfg x = if x.value < 2 ^ cfg.durWidth then .ok (BitVec.ofNat 32 x.value) else .error .valueTooLarge := by
  cases x <;> rfl

/-! A line that names a command. -/

theorem asmLine_command (cfg : Config) (m : Mnemonic) (ops : List AsmNumber) :
    asmLine cfg ⟨.command m, ops⟩ = asmAll [asmCommand cfg m ops] := rfl

/-- A command line gives the command's one request. -/
theorem asmLine_command_eq_ok_iff (cfg : Config) (m : Mnemonic) (ops : List AsmNumber) (r : Request) :
    asmLine cfg ⟨.command m, ops⟩ = .ok [r] ↔ asmCommand cfg m ops = .ok r := by
  rw [asmLine_command]
  cases asmCommand cfg m ops <;> simp [asmAll]

/-- A command line is refused for what the command is. -/
theorem asmLine_command_eq_error_iff (cfg : Config) (m : Mnemonic) (ops : List AsmNumber) (e : AsmError) :
    asmLine cfg ⟨.command m, ops⟩ = .error e ↔ asmCommand cfg m ops = .error e := by
  rw [asmLine_command]
  cases asmCommand cfg m ops <;> simp [asmAll]

section
variable (cfg : Config) {m : Mnemonic} {n : Nat}

/-! The commands that take an index and a value. -/

section
variable (hm : storesValue m = true)
include hm

theorem asmCommand_of_stores (idx x : AsmNumber) : asmCommand cfg m [idx, x] = asmStore cfg m idx x := by
  simp only [asmCommand, hm]

theorem asmCommand_stores_nil : asmCommand cfg m [] = .error .wrongOperands := by simp only [asmCommand, hm]

theorem asmCommand_stores_singleton (idx : AsmNumber) : asmCommand cfg m [idx] = .error .wrongOperands := by
  simp only [asmCommand, hm]

end

theorem asmStore_ok {x : AsmNumber} (hn : n ≤ 63) (hx : x.value < 2 ^ cfg.durWidth) :
    asmStore cfg m (.decimal n) x = .ok (encode (m.instr (BitVec.ofNat 6 n) (BitVec.ofNat 32 x.value))) := by
  rw [asmStore, asmIndex_of_le hn, asmValue_eq, if_pos hx]

/-- The index is looked at first. -/
theorem asmStore_badIndex (hn : 63 < n) (x : AsmNumber) : asmStore cfg m (.decimal n) x = .error .badIndex := by
  rw [asmStore, asmIndex_of_lt hn]

theorem asmStore_valueTooLarge {x : AsmNumber} (hn : n ≤ 63) (hx : 2 ^ cfg.durWidth ≤ x.value) :
    asmStore cfg m (.decimal n) x = .error .valueTooLarge := by
  rw [asmStore, asmIndex_of_le hn, asmValue_eq, if_neg (Nat.not_lt.2 hx)]

/-! The commands that take an index alone. -/

section
variable (hm : storesValue m = false) (hi : m.indexed = true)
include hm hi

theorem asmCommand_indexed_ok (hn : n ≤ 63) :
    asmCommand cfg m [.decimal n] = .ok (encode (m.instr (BitVec.ofNat 6 n) 0#32)) := by
  simp only [asmCommand, hm, hi, asmIndex_of_le hn]

theorem asmCommand_indexed_badIndex (hn : 63 < n) : asmCommand cfg m [.decimal n] = .error .badIndex := by
  simp only [asmCommand, hm, hi, asmIndex_of_lt hn]

theorem asmCommand_indexed_nil : asmCommand cfg m [] = .error .wrongOperands := by simp only [asmCommand, hm, hi]

end

/-- The commands that take no operand. -/
theorem asmCommand_fixed (hm : storesValue m = false) (hi : m.indexed = false) :
    asmCommand cfg m [] = .ok (encode (m.instr 0#6 0#32)) := by
  simp only [asmCommand, hm, hi]

end

/-- A command written without a value has the data word 0. -/
theorem instr_zero_wdata (m : Mnemonic) (idx : Idx) : (m.instr idx 0#32).wdata = 0#32 := by
  rw [instr_wdata, ite_self]

/-! The operands of each row, by its name. -/

theorem storesValue_of_mem : ∀ m ∈ [Mnemonic.sets, .seth, .setl], storesValue m = true := by decide

theorem indexed_alone_of_mem :
    ∀ m ∈ [Mnemonic.gets, .geth, .getl, .getbit], storesValue m = false ∧ m.indexed = true := by decide

theorem no_operand_of_mem :
    ∀ m ∈ [Mnemonic.clear, .decode, .valid, .missing, .humid, .temp, .rawtemp, .parity, .status],
      storesValue m = false ∧ m.indexed = false := by decide

/-- Settles O53: the line is the encoded command, which decodes to itself; a refused operand refuses the line. -/
theorem assembledCommandDecodes : Obligations.AssembledCommandDecodes := by
  intro cfg n v hwidth
  simp only [asmLine_command_eq_ok_iff, asmLine_command_eq_error_iff]
  refine ⟨fun hn hv m hm => ?_, fun hn m hm => ?_, fun m hm => ?_, fun hn m hm => ?_, fun hn m hm x => ?_,
    fun hn hv m hm => ?_, fun m hm => ?_, fun m hm => ?_⟩
  · have hs := storesValue_of_mem m hm
    refine ⟨_, (asmCommand_of_stores cfg hs _ _).trans (asmStore_ok cfg hn hv),
      (asmCommand_of_stores cfg hs _ _).trans (asmStore_ok cfg hn hv), decodeOfEncodeIsTheCommand _, ?_⟩
    have hv32 : v < 2 ^ 32 := hv.trans_le (Nat.pow_le_pow_right (by decide) hwidth)
    rw [encode, instr_wdata, if_pos hs]
    exact Nat.mod_eq_of_lt hv32
  · obtain ⟨hs, hi⟩ := indexed_alone_of_mem m hm
    exact ⟨_, asmCommand_indexed_ok cfg hs hi hn, decodeOfEncodeIsTheCommand _, instr_zero_wdata m _⟩
  · obtain ⟨hs, hi⟩ := no_operand_of_mem m hm
    exact ⟨_, asmCommand_fixed cfg hs hi, decodeOfEncodeIsTheCommand _, instr_zero_wdata m _⟩
  · obtain ⟨hs, hi⟩ := indexed_alone_of_mem m hm
    exact asmCommand_indexed_badIndex cfg hs hi hn
  · rw [asmCommand_of_stores cfg (storesValue_of_mem m hm), asmStore_badIndex cfg hn]
  · simp only [asmCommand_of_stores cfg (storesValue_of_mem m hm)]
    exact ⟨asmStore_valueTooLarge cfg hn hv, asmStore_valueTooLarge cfg hn hv⟩
  · have hs := storesValue_of_mem m hm
    exact ⟨asmCommand_stores_nil cfg hs, asmCommand_stores_singleton cfg hs⟩
  · obtain ⟨hs, hi⟩ := indexed_alone_of_mem m hm
    exact asmCommand_indexed_nil cfg hs hi

/-- Settles O54: a pseudo-instruction's requests are those of its commands' lines, in order. -/
theorem pseudoInstructionsExpand : Obligations.PseudoInstructionsExpand := by
  intro cfg a b c x y z
  simp only [asmLine_command_eq_ok_iff, asmCommand_of_stores cfg (m := .sets) rfl,
    asmCommand_of_stores cfg (m := .seth) rfl, asmCommand_of_stores cfg (m := .setl) rfl]
  refine ⟨fun hx hy => ?_, fun hx hy hz => ?_, rfl⟩
  · simp only [asmLine, hx, hy, asmAll]
  · simp only [asmLine, hx, hy, hz, asmAll]

end Sys2Proof.Machine
end

section
/-!
SUPPORT. The faults of a row with an index, and the buffer access commands CLEAR, SETS, GETS, SETH, GETH,
SETL and GETL (spec/30_encoding.md R38, R39, spec/40_buffer_access.md R44–R50, spec/60_exceptions.md R75, R76).
-/

namespace Sys2Proof.Machine

/-- The word of a row with an index, written as the row's match and the index, is the row's command (R34, R38). -/
theorem decodeRequest_matchWord_add {m : Mnemonic} (hm : m.indexed = true) (i : Idx) (v : Word) :
    decodeRequest ⟨m.matchWord + i.setWidth 16, v⟩ = .ok (m.instr i v) := by
  rw [m.matchWord_add_idx]
  exact decodeRequest_append m i v (.inl hm)

/-- A word with RSV not 0 is illegal on every row (R39). -/
theorem refusesWord_of_illegalIndexedForm (s : State) {r : Request} {op : Nat} (h : IllegalIndexedForm op r.cmd) :
    RefusesWord s r := by
  obtain ⟨-, hform⟩ := h
  refine refusesWord_of_not_decoded s fun i hi => hform ?_
  obtain ⟨_, -, hrsv, -, -⟩ := (decodeRequest_eq_ok_iff r i).1 hi
  rw [← rsvField_toNat, hrsv]
  rfl

section
variable {i : Instr} (s : State) {n : Nat} (hf : s.block.faulted = false) (hl : i.mnemonic.limit = some n)
include hf hl

/-- An index at or above its row's limit faults with cause 1, whatever the phase (R75, R76). -/
theorem exec_of_limit_le (h : n ≤ i.idx.toNat) : exec i s = .next (s.faultedWith 1#4) :=
  exec_of_indexOut i s hf (by simpa [indexOut, hl] using h)

/-- A write with a legal index faults with cause 4 in DECODED, where the buffer is read-only (R75, R76). -/
theorem exec_write_of_decoded (hn : i.mnemonic.needs = some .capture) (hi : i.idx.toNat < n)
    (hp : s.block.phase = .decoded) : exec i s = .next (s.faultedWith 4#4) := by
  have hin : ¬ indexOut (some i.mnemonic) i.idx = true := by simpa [indexOut, hl] using hi
  rw [exec_eq_serve]
  apply serve_fault (c := .writeAfterDecode)
  rw [admission_unfaulted _ _ _ hf (indexed_or_idx_zero i), if_neg hin, if_pos ⟨hn, hp⟩]

end

/-- No command but CLEAR leads from DECODED back to CAPTURE (R15, R44). -/
theorem perform_phase_of_decoded (cfg : Config) {m : Mnemonic} (idx : Idx) (v : Word) {b : Block}
    (hp : b.phase = .decoded) (hclear : m ≠ .clear) : (perform cfg m idx v b).1.phase = .decoded := by
  by_cases hdecode : m = .decode
  · rw [hdecode]
    exact latchFrame_phase cfg b
  · obtain ⟨-, hphase⟩ := perform_results cfg idx v b hclear hdecode
    rw [hphase, hp]

/-- Nor does any request but the one word of CLEAR: a rejected one and one that faults keep PHASE (R15, R44, R77). -/
theorem cmd_eq_clear_of_blockStep_phase (cfg : Config) {b : Block} {r : Request} (hp : b.phase = .decoded)
    (h : (blockStep cfg b r).1.phase = .capture) : r.cmd = Mnemonic.matchWord .clear := by
  rcases blockStep_cases cfg b r with ⟨-, hr⟩ | ⟨c, -, hr⟩ | ⟨m, hrow, hadmitted, hr⟩ <;> rw [hr] at h
  · simp [hp] at h
  · simp [hp] at h
  · by_cases hclear : m = .clear
    · subst hclear
      exact cmd_eq_matchWord_of_admitted hrow hadmitted rfl
    · rw [perform_phase_of_decoded cfg _ _ hp hclear] at h
      cases h

/-- The classes do not depend on the handshake durations (R51, R62). -/
theorem classes_with_start (cfg : Config) (b : Block) (x : Vector Duration 3) :
    classes cfg { b with start := x } = classes cfg b := by
  simp only [classes]

/-- A duration outside both windows is MISSING, whatever the reference phase (R52). -/
theorem classify_eq_missing_of_outside (cfg : Config) (d r : Duration)
    (hshort : ¬ (cfg.shortMin ≤ d.toNat ∧ d.toNat ≤ cfg.shortMax))
    (hlong : ¬ (cfg.longMin ≤ d.toNat ∧ d.toNat ≤ cfg.longMax)) : classify cfg d r = .missing := by
  rw [← inWindow_iff] at hshort hlong
  rw [classify, if_neg hshort, if_neg hlong, ite_self]

/-- Settles O14: CLEAR is admitted unfaulted, and no other command moves PHASE back to CAPTURE. -/
theorem clearEmptiesTheBuffer : Obligations.ClearEmptiesTheBuffer := by
  refine ⟨fun w => ?_, fun s => ⟨fun hf => ?_, fun hf => ?_, fun r h => ?_, fun r t ht hp hcapture => ?_⟩⟩
  · exact decodeRequest_append .clear 0#6 w (.inr rfl)
  · exact exec_of_admissible .clear s hf ⟨nofun, nofun⟩
  · exact exec_of_faulted .clear s hf nofun
  · exact refusesWord_of_illegalFixedForm s .clear rfl h
  · rw [block_of_step_withRequest ht] at hcapture
    exact cmd_eq_clear_of_blockStep_phase Config.hw hp hcapture

/-- Settles O15: the write is admitted in CAPTURE alone, and the classes do not read `start`. -/
theorem setsWritesOneStartDuration : Obligations.SetsWritesOneStartDuration := by
  refine fun s i v => ⟨?_, fun hf hp h => ?_, fun hf h => ?_, fun hf h hp => ?_, fun hf => ?_, fun r h => ?_,
    fun cfg h => ?_⟩
  · exact decodeRequest_matchWord_add (m := .sets) rfl i v
  · rw [← writeStart_of_lt]
    exact exec_sets_of_lt s hf v hp h
  · exact exec_of_limit_le s hf rfl h
  · exact exec_write_of_decoded s hf rfl rfl h hp
  · exact exec_of_faulted _ s hf nofun
  · exact refusesWord_of_illegalIndexedForm s h
  · exact sameResults_of_classes_eq (classes_with_start cfg s.block _)

/-- Settles O16: the read is admitted in either phase. -/
theorem getsReadsOneStartDuration : Obligations.GetsReadsOneStartDuration := by
  refine fun s i v => ⟨?_, fun hf h => ?_, fun hf h => ?_, fun hf => ?_, fun r h => ?_⟩
  · exact decodeRequest_matchWord_add (m := .gets) rfl i v
  · rw [← readStart_of_lt]
    exact exec_gets_of_lt s hf h
  · exact exec_of_limit_le s hf rfl h
  · exact exec_of_faulted _ s hf nofun
  · exact refusesWord_of_illegalIndexedForm s h

/-- Settles O17: the write is admitted in CAPTURE alone, and without a reference window the classes read only `low`. -/
theorem sethWritesOneReferenceDuration : Obligations.SethWritesOneReferenceDuration := by
  refine fun s p v => ⟨?_, fun hf hp h => ?_, fun hf h => ?_, fun hf h hp => ?_, fun hf => ?_, fun r h => ?_,
    fun cfg h href => ?_⟩
  · exact decodeRequest_matchWord_add (m := .seth) rfl p v
  · rw [← writeHigh_of_lt]
    exact exec_seth_of_lt s hf v hp h
  · exact exec_of_limit_le s hf rfl h
  · exact exec_write_of_decoded s hf rfl rfl h hp
  · exact exec_of_faulted _ s hf nofun
  · exact refusesWord_of_illegalIndexedForm s h
  · exact sameResults_of_classes_eq (classes_of_low_eq href rfl)

/-- Settles O18: the read is admitted in either phase. -/
theorem gethReadsOneReferenceDuration : Obligations.GethReadsOneReferenceDuration := by
  refine fun s p v => ⟨?_, fun hf h => ?_, fun hf h => ?_, fun hf => ?_, fun r h => ?_⟩
  · exact decodeRequest_matchWord_add (m := .geth) rfl p v
  · rw [← readHigh_of_lt]
    exact exec_geth_of_lt s hf h
  · exact exec_of_limit_le s hf rfl h
  · exact exec_of_faulted _ s hf nofun
  · exact refusesWord_of_illegalIndexedForm s h

/-- Settles O19: the write is admitted in CAPTURE alone, and its value classifies as MISSING outside both windows. -/
theorem setlWritesOneDataDuration : Obligations.SetlWritesOneDataDuration := by
  refine fun s p v => ⟨?_, fun hf hp h => ?_, fun hf h => ?_, fun hf h hp => ?_, fun hf => ?_, fun r h => ?_,
    fun d hshort hlong => ?_⟩
  · exact decodeRequest_matchWord_add (m := .setl) rfl p v
  · rw [← writeLow_of_lt]
    exact exec_setl_of_lt s hf v hp h
  · exact exec_of_limit_le s hf rfl h
  · exact exec_write_of_decoded s hf rfl rfl h hp
  · exact exec_of_faulted _ s hf nofun
  · exact refusesWord_of_illegalIndexedForm s h
  · exact classify_eq_missing_of_outside Config.hw v d hshort hlong

/-- Settles O20: the read is admitted in either phase, and after a SETL it answers the value written. -/
theorem getlReadsOneDataDuration : Obligations.GetlReadsOneDataDuration := by
  refine fun s p v => ⟨?_, fun hf h => ?_, fun hf h => ?_, fun hf => ?_, fun r h => ?_, fun hf hp h => ?_⟩
  · exact decodeRequest_matchWord_add (m := .getl) rfl p v
  · rw [← readLow_of_lt]
    exact exec_getl_of_lt s hf h
  · exact exec_of_limit_le s hf rfl h
  · exact exec_of_faulted _ s hf nofun
  · exact refusesWord_of_illegalIndexedForm s h
  · obtain ⟨-, -, hlow⟩ := writtenDurationIsReadBack s v hf hp
    obtain ⟨t, hset, hget, -⟩ := hlow p h
    exact ⟨t, hset, hget⟩

end Sys2Proof.Machine
end

section
/-!
SUPPORT. The classifier by its windows, the latched bits and count, the order of the bits in the fields, and the verdict
by its four tests (spec/41_decode.md R51–R61).
-/

namespace Sys2Proof.Machine

/-! ### The classifier (R52) -/

/-- The reference check passes unless there is a window and the reference duration lies outside it. -/
theorem referenceOk_iff (cfg : Config) (r : Duration) :
    referenceOk cfg r = true ↔
      ¬ ∃ lo hi, cfg.refWindow = some (lo, hi) ∧ ¬ (lo ≤ r.toNat ∧ r.toNat ≤ hi) := by
  rcases hw : cfg.refWindow with _ | ⟨lo, hi⟩
  · simp [referenceOk, hw]
  · simp [referenceOk, hw, inWindow_iff]

/-- The hardware has no reference window, so its check always passes. -/
theorem referenceOk_hw (r : Duration) : referenceOk Config.hw r = true := rfl

/-- ZERO at the hardware's values. -/
theorem classify_hw_eq_zero_iff (d r : Duration) :
    classify Config.hw d r = .zero ↔ 20 ≤ d.toNat ∧ d.toNat ≤ 30 := by
  rw [classify_eq_zero_iff, referenceOk_hw, eq_self, true_and]
  rfl

/-- ONE at the hardware's values. -/
theorem classify_hw_eq_one_iff (d r : Duration) :
    classify Config.hw d r = .one ↔ 65 ≤ d.toNat ∧ d.toNat ≤ 80 := by
  rw [classify_eq_one_iff _ _ _ (by decide), referenceOk_hw, eq_self, true_and]
  rfl

/-- MISSING at the hardware's values is neither of the two. -/
theorem classify_hw_eq_missing_iff (d r : Duration) :
    classify Config.hw d r = .missing ↔
      ¬ (20 ≤ d.toNat ∧ d.toNat ≤ 30) ∧ ¬ (65 ≤ d.toNat ∧ d.toNat ≤ 80) := by
  rw [← classify_hw_eq_zero_iff d r, ← classify_hw_eq_one_iff d r]
  cases classify Config.hw d r <;> decide

/-- Settles O22: each class has its window, and the hardware's windows cut the durations into five ranges. -/
theorem classifyFollowsTheWindows : Obligations.ClassifyFollowsTheWindows := by
  constructor
  · intro cfg d r hwf
    obtain ⟨-, -, -, hapart, -, -, -⟩ := cfg.wf_iff.1 hwf
    dsimp only
    rw [← referenceOk_iff]
    exact ⟨classify_eq_zero_iff cfg d r, classify_eq_one_iff cfg d r hapart⟩
  · intro d r
    rw [classify_hw_eq_zero_iff, classify_hw_eq_one_iff, classify_hw_eq_missing_iff]
    omega

/-! ### The latched bits and the missing-bit count (R53, R54) -/

/-- The latched bit of a position is 1 exactly when the position is a ONE. -/
theorem latchFrame_bit_iff (cfg : Config) (b : Block) (p : Fin 40) :
    (latchFrame cfg b).resBit[p] = true ↔ classify cfg b.low[p] b.high[p] = .one := by
  rw [latchFrame_resBit, Fin.getElem_fin, decodedBits_get cfg b p p.isLt, beq_iff_eq]
  rfl

/-- The entries of a listed function that pass a test are counted by its arguments. -/
theorem countP_ofFn {α : Type} {n : Nat} (f : Fin n → α) (test : α → Bool) :
    (List.ofFn f).countP test = (Finset.univ.filter fun p => test (f p) = true).card := by
  have hcard : (Finset.univ.filter fun p => test (f p) = true).card
      = ((List.finRange n).filter fun p => decide (test (f p) = true)).length := rfl
  rw [hcard, List.ofFn_eq_map, List.countP_map, List.countP_eq_length_filter]
  simp only [Bool.decide_eq_true, Function.comp_def]

/-- The count is the number of positions that are MISSING. -/
theorem missingCount_eq_card (cfg : Config) (b : Block) :
    missingCount cfg b
      = (Finset.univ.filter fun p : Fin 40 => classify cfg b.low[p] b.high[p] = .missing).card := by
  rw [missingCount, classes, Vector.toList_ofFn, countP_ofFn]
  simp only [beq_iff_eq]

/-- The latched count is the count: 40 does not wrap in six bits. -/
theorem latchFrame_resMissing_toNat (cfg : Config) (b : Block) :
    (latchFrame cfg b).resMissing.toNat = missingCount cfg b := by
  have := missingCount_le cfg b
  rw [latchFrame_resMissing, BitVec.toNat_ofNat]
  omega

/-- Settles O23: bits and count are read from the classes. -/
theorem latchedBitsAndMissingCount : Obligations.LatchedBitsAndMissingCount := by
  intro cfg b
  rw [latchFrame_resMissing_toNat]
  exact ⟨latchFrame_bit_iff cfg b, missingCount_eq_card cfg b, missingCount_le cfg b⟩

/-! ### The fields (R55–R57) -/

/-- Settles O24: each field is the run of bits that starts at its first position. -/
theorem fieldsAreMostSignificantBitFirst : Obligations.FieldsAreMostSignificantBitFirst := by
  intro cfg b
  rw [latchFrame_resBit, latchFrame_resHum, latchFrame_resTemp, latchFrame_resParity]
  exact ⟨fun j => (getElem_eq_humidityField _ j j.isLt).symm,
    fun j => (getElem_eq_temperatureField _ j j.isLt).symm,
    fun j => getLsbD_fieldAt _ 32 8 j j.isLt (by decide)⟩

/-! ### The verdict (R58–R61) -/

/-- The sum of the four data bytes, each field cut at 256 (R58). -/
theorem byteSum_eq (hum temp : BitVec 16) :
    byteSum hum temp = hum.toNat / 256 + hum.toNat % 256 + temp.toNat / 256 + temp.toNat % 256 := by
  have hhum := hum.isLt
  have htemp := temp.isLt
  simp only [byteSum, BitVec.extractLsb'_toNat, Nat.shiftRight_eq_div_pow]
  omega

/-- The sign is set exactly from 0x8000 on (R56). -/
theorem tSign_iff (temp : BitVec 16) : tSign temp = true ↔ 0x8000 ≤ temp.toNat := by
  rw [tSign, ← BitVec.msb_eq_getLsbD_last, BitVec.msb_eq_decide, decide_eq_true_eq]

/-- The magnitude is what the sign leaves (R56). -/
theorem tMag_eq (temp : BitVec 16) : tMag temp = temp.toNat % 0x8000 := by
  simp [tMag]

/-- The humidity test (R59). -/
theorem humOK_iff (hum : BitVec 16) : humOK hum = true ↔ hum.toNat ≤ 1000 := decide_eq_true_iff

/-- The temperature test on sign and magnitude (R60). -/
theorem tempOK_iff_sign_magnitude (temp : BitVec 16) :
    tempOK temp = true ↔
      (tSign temp = false ∧ tMag temp ≤ 1000) ∨ (tSign temp = true ∧ tMag temp ≤ 500) := by
  rw [tempOK, Config.temperatureMax, Config.temperatureMinMagnitude]
  simp

/-- The same test on the field as a number. -/
theorem tempOK_iff (temp : BitVec 16) :
    tempOK temp = true ↔
      (temp.toNat < 0x8000 ∧ temp.toNat ≤ 1000) ∨ (0x8000 ≤ temp.toNat ∧ temp.toNat - 0x8000 ≤ 500) := by
  have hlt := temp.isLt
  rw [tempOK_iff_sign_magnitude, ← Bool.not_eq_true, tSign_iff, tMag_eq]
  omega

/-- The verdict is the conjunction of the four tests (R61). -/
theorem verdict_iff (missing : Nat) (hum temp : BitVec 16) (parity : BitVec 8) :
    verdict missing hum temp parity = true ↔
      missing = 0
      ∧ parity.toNat
          = (hum.toNat / 256 + hum.toNat % 256 + temp.toNat / 256 + temp.toNat % 256) % 256
      ∧ hum.toNat ≤ 1000
      ∧ ((temp.toNat < 0x8000 ∧ temp.toNat ≤ 1000) ∨ (0x8000 ≤ temp.toNat ∧ temp.toNat - 0x8000 ≤ 500)) := by
  simp only [verdict, Bool.and_eq_true, beq_iff_eq, checksumOK, byteSum_eq, humOK_iff,
    tempOK_iff, and_assoc]

/-- Settles O25: the verdict's four tests, on the latched count and fields. -/
theorem verdictIsTheFourTests : Obligations.VerdictIsTheFourTests := by
  rintro cfg b t rfl
  rw [← BitVec.toNat_inj, latchFrame_resMissing_toNat, latchFrame_resValid, latchFrame_resHum, latchFrame_resTemp,
    latchFrame_resParity]
  exact verdict_iff _ _ _ _

end Sys2Proof.Machine
end

section
/-!
SUPPORT. DECODE as a command: what it latches, a frame sent as pulse durations, a second DECODE, the handshake durations,
and the physical range of a valid frame (spec/41_decode.md R62–R65, spec/42_results.md R74).
-/

namespace Sys2Proof.Machine

/-! ### DECODE (R63) -/

/-- The bit latched at the hardware's values: the long window alone. -/
theorem latchFrame_hw_bit_iff (b : Block) (p : Fin 40) :
    (latchFrame Config.hw b).resBit[p] = true ↔ 65 ≤ b.low[p].toNat ∧ b.low[p].toNat ≤ 80 :=
  (latchFrame_bit_iff Config.hw b p).trans (classify_hw_eq_one_iff _ _)

/-- The count latched at the hardware's values: the positions outside both windows. -/
theorem latchFrame_hw_resMissing_toNat (b : Block) :
    (latchFrame Config.hw b).resMissing.toNat
      = (Finset.univ.filter fun p : Fin 40 =>
          ¬ (20 ≤ b.low[p].toNat ∧ b.low[p].toNat ≤ 30) ∧ ¬ (65 ≤ b.low[p].toNat ∧ b.low[p].toNat ≤ 80)).card := by
  simp only [latchFrame_resMissing_toNat, missingCount_eq_card, classify_hw_eq_missing_iff]

/-- Settles O26: DECODE is admitted unfaulted in either phase, and each register it latches has its own rule. -/
theorem decodeLatchesTheFrame : Obligations.DecodeLatchesTheFrame := by
  refine ⟨fun w => decodeRequest_append .decode 0#6 w (.inr rfl), fun s => ⟨fun hf => ?_, fun hf => ?_, fun r h => ?_⟩⟩
  · obtain ⟨hhum, htemp, hparity⟩ := fieldsAreMostSignificantBitFirst Config.hw s.block
    exact ⟨_, exec_decode_of_unfaulted s hf, rfl, latchFrame_start _ _, latchFrame_high _ _, latchFrame_low _ _,
      latchFrame_faulted _ _, latchFrame_cause _ _, latchFrame_phase _ _, latchFrame_hw_bit_iff s.block,
      latchFrame_hw_resMissing_toNat s.block, hhum, htemp, hparity,
      verdictIsTheFourTests Config.hw s.block _ rfl⟩
  · exact exec_of_faulted .decode s hf nofun
  · exact refusesWord_of_illegalFixedForm s .decode rfl h

/-! ### A frame sent as pulse durations (R65) -/

/-- A field of bits that spell a 40-bit frame is the frame's slice. -/
theorem fieldAt_eq_extractLsb' {bits : Vector Bool 40} {frame : BitVec 40}
    (h : ∀ p : Fin 40, bits[p] = frame.getMsbD p) (first width : Nat) (hw : first + width ≤ 40) :
    fieldAt bits first width = frame.extractLsb' (40 - first - width) width := by
  apply BitVec.eq_of_getMsbD_eq
  intro j hj
  have hfield : (fieldAt bits first width).getMsbD j = bits[first + j] := by
    rw [BitVec.getMsbD, decide_eq_true hj, Bool.true_and, getLsbD_fieldAt bits first width j hj hw]
  have hslice : (frame.extractLsb' (40 - first - width) width).getMsbD j = frame.getMsbD (first + j) := by
    rw [BitVec.getMsbD_extractLsb', decide_eq_true hj, decide_eq_true (by omega), Bool.true_and, Bool.true_and,
      show 40 - (40 - first - width + width - j) = first + j by omega]
  exact hfield.trans ((h ⟨first + j, by omega⟩).trans hslice.symm)

/-- The class of a position that carries a bit: the bit's own, where the reference check passes (R52). -/
theorem classify_of_sent {cfg : Config} (hapart : cfg.shortMax < cfg.longMin) {d r : Duration} {x : Bool}
    (hr : referenceOk cfg r = true)
    (hd : if x then cfg.longMin ≤ d.toNat ∧ d.toNat ≤ cfg.longMax
      else cfg.shortMin ≤ d.toNat ∧ d.toNat ≤ cfg.shortMax) :
    classify cfg d r = if x then .one else .zero := by
  cases x
  · exact (classify_eq_zero_iff cfg d r).2 ⟨hr, hd⟩
  · exact (classify_eq_one_iff cfg d r hapart).2 ⟨hr, hd⟩

section
variable {cfg : Config} {b : Block} {frame : BitVec 40}
  (hsent : ∀ p : Fin 40, classify cfg b.low[p] b.high[p] = if frame.getMsbD p then .one else .zero)
include hsent

/-- The decoded bits of a sent frame are the frame's (R53). -/
theorem decodedBits_of_sent (p : Fin 40) : (decodedBits cfg b)[p] = frame.getMsbD p := by
  have hclass := hsent p
  simp only [Fin.getElem_fin] at hclass ⊢
  rw [decodedBits_get, hclass]
  cases frame.getMsbD p <;> rfl

/-- Nothing is missing from a sent frame (R54). -/
theorem missingCount_of_sent : missingCount cfg b = 0 := by
  rw [missingCount_eq_zero_iff]
  intro p hp hmissing
  have hclass := (hsent ⟨p, hp⟩).symm.trans hmissing
  split at hclass <;> cases hclass

end

/-- A word with a byte after it, as a number. -/
theorem append_byte_toNat {n : Nat} (x : BitVec n) (y : BitVec 8) : (x ++ y).toNat = 256 * x.toNat + y.toNat := by
  rw [BitVec.toNat_append, ← Nat.shiftLeft_add_eq_or_of_lt y.isLt, Nat.shiftLeft_eq]
  omega

/-- The slices of five bytes that are the three fields (R55–R57). -/
theorem extractLsb'_fiveBytes (f0 f1 f2 f3 f4 : BitVec 8) :
    (f0 ++ f1 ++ f2 ++ f3 ++ f4).extractLsb' 24 16 = f0 ++ f1
    ∧ (f0 ++ f1 ++ f2 ++ f3 ++ f4).extractLsb' 8 16 = f2 ++ f3
    ∧ (f0 ++ f1 ++ f2 ++ f3 ++ f4).extractLsb' 0 8 = f4 := by
  simp only [← BitVec.toNat_inj, BitVec.extractLsb'_toNat, append_byte_toNat, Nat.shiftRight_eq_div_pow]
  omega

/-- Settles O27: the sent bits are the decoded ones, so the fields are the bytes, and the verdict's tests are those of the
bytes. -/
theorem sentFrameIsTheDecodedFrame : Obligations.SentFrameIsTheDecodedFrame := by
  rintro cfg b t f0 f1 f2 f3 f4 hwf hreference hduration rfl
  obtain ⟨-, -, -, hapart, -, -, -⟩ := cfg.wf_iff.1 hwf
  have hsent := fun p => classify_of_sent hapart (hreference p) (hduration p)
  have hbits := decodedBits_of_sent hsent
  have hcount := missingCount_of_sent hsent
  obtain ⟨hslice01, hslice23, hslice4⟩ := extractLsb'_fiveBytes f0 f1 f2 f3 f4
  have hhum : humidityField (decodedBits cfg b) = f0 ++ f1 :=
    (fieldAt_eq_extractLsb' hbits 0 16 (by decide)).trans hslice01
  have htemp : temperatureField (decodedBits cfg b) = f2 ++ f3 :=
    (fieldAt_eq_extractLsb' hbits 16 16 (by decide)).trans hslice23
  have hparity : parityField (decodedBits cfg b) = f4 :=
    (fieldAt_eq_extractLsb' hbits 32 8 (by decide)).trans hslice4
  rw [latchFrame_resMissing, latchFrame_resHum, latchFrame_resTemp, latchFrame_resParity, latchFrame_resValid,
    hcount, hhum, htemp, hparity, verdict_iff, append_byte_toNat, append_byte_toNat]
  refine ⟨rfl, rfl, rfl, rfl, ?_⟩
  have := f1.isLt
  have := f3.isLt
  omega

/-! ### A second DECODE (R64) -/

/-- In DECODED, any request but CLEAR keeps the durations DECODE reads and the phase (R10, R11, R15). -/
theorem blockStep_of_decoded (cfg : Config) {b : Block} {r : Request} (hp : b.phase = .decoded)
    (hr : r.cmd ≠ Mnemonic.matchWord .clear) :
    (blockStep cfg b r).1.high = b.high ∧ (blockStep cfg b r).1.low = b.low
      ∧ (blockStep cfg b r).1.phase = .decoded := by
  rcases blockStep_cases cfg b r with ⟨-, h⟩ | ⟨c, -, h⟩ | ⟨m, hrow, hadmitted, h⟩ <;> rw [h]
  · exact ⟨rfl, rfl, hp⟩
  · exact ⟨rfl, rfl, hp⟩
  · have hclear : m ≠ .clear := by
      rintro rfl
      exact hr (cmd_eq_matchWord_of_admitted hrow hadmitted rfl)
    have hwrite : m.needs ≠ some .capture := by
      intro hneeds
      rw [phase_of_admitted hadmitted hneeds] at hp
      cases hp
    refine ⟨perform_high cfg _ _ b hclear ?_, perform_low cfg _ _ b hclear ?_,
      perform_phase_of_decoded cfg _ _ hp hclear⟩
    · rintro rfl
      exact hwrite rfl
    · rintro rfl
      exact hwrite rfl

/-- So does any sequence of them. -/
theorem foldl_blockStep_of_decoded (cfg : Config) (between : List Request) {b : Block} (hp : b.phase = .decoded)
    (hbetween : ∀ r ∈ between, r.cmd ≠ Mnemonic.matchWord .clear) :
    (between.foldl (fun b r => (blockStep cfg b r).1) b).high = b.high
      ∧ (between.foldl (fun b r => (blockStep cfg b r).1) b).low = b.low := by
  induction between generalizing b with
  | nil => exact ⟨rfl, rfl⟩
  | cons r rest ih =>
    rw [List.forall_mem_cons] at hbetween
    obtain ⟨hhigh, hlow, hphase⟩ := blockStep_of_decoded cfg hp hbetween.1
    obtain ⟨ihhigh, ihlow⟩ := ih hphase hbetween.2
    exact ⟨ihhigh.trans hhigh, ihlow.trans hlow⟩

/-- The classes are a function of the two duration files DECODE reads (R51, R62). -/
theorem classes_congr (cfg : Config) {a b : Block} (hhigh : a.high = b.high) (hlow : a.low = b.low) :
    classes cfg a = classes cfg b := by
  simp only [classes, hhigh, hlow]

/-- Settles O31: the second DECODE reads the durations the first one read. -/
theorem decodeIsIdempotent : Obligations.DecodeIsIdempotent := by
  intro cfg b between hbetween
  obtain ⟨hhigh, hlow⟩ := foldl_blockStep_of_decoded cfg between (latchFrame_phase cfg b) hbetween
  rw [latchFrame_high] at hhigh
  rw [latchFrame_low] at hlow
  exact sameResults_of_classes_eq (classes_congr cfg hhigh hlow)

/-! ### The handshake durations (R62) -/

/-- DECODE latches the same frame beside any handshake durations. -/
theorem latchFrame_with_start (cfg : Config) (b : Block) (x : Vector Duration 3) :
    latchFrame cfg { b with start := x } = { latchFrame cfg b with start := x } := by
  have hbits := decodedBits_congr cfg { b with start := x } b rfl rfl
  have hmissing := missingCount_congr cfg { b with start := x } b rfl rfl
  simp only [latchFrame, hbits, hmissing]

/-- Settles O29: DECODE is admitted with either handshake durations, and latches the same frame beside them. -/
theorem decodeDoesNotReadStart : Obligations.DecodeDoesNotReadStart := by
  intro s x hf
  refine ⟨_, exec_decode_of_unfaulted s hf, ?_⟩
  refine (exec_decode_of_unfaulted { s with block := { s.block with start := x } } hf).trans ?_
  rw [latchFrame_with_start]
  rfl

/-! ### The physical range of a valid frame (R59–R61, R74) -/

/-- A humidity the test passes is a percentage. -/
theorem humidityPercent_bounds {b : Block} (h : humOK b.resHum = true) :
    0 ≤ humidityPercent b ∧ humidityPercent b ≤ 100 := by
  have hmax : (b.resHum.toNat : ℚ) ≤ 1000 := by exact_mod_cast (humOK_iff _).1 h
  have hmin : (0 : ℚ) ≤ b.resHum.toNat := Nat.cast_nonneg _
  rw [humidityPercent]
  constructor <;> linarith

/-- A temperature the test passes lies between -50 and 100 degrees. -/
theorem temperatureCelsius_bounds {b : Block} (h : tempOK b.resTemp = true) :
    -50 ≤ temperatureCelsius b ∧ temperatureCelsius b ≤ 100 := by
  have hmin : (0 : ℚ) ≤ tMag b.resTemp := Nat.cast_nonneg _
  rw [temperatureCelsius]
  rcases (tempOK_iff_sign_magnitude _).1 h with ⟨hsign, hmag⟩ | ⟨hsign, hmag⟩
  · have hmax : (tMag b.resTemp : ℚ) ≤ 1000 := by exact_mod_cast hmag
    rw [hsign, if_neg Bool.false_ne_true]
    constructor <;> linarith
  · have hmax : (tMag b.resTemp : ℚ) ≤ 500 := by exact_mod_cast hmag
    rw [hsign, if_pos rfl]
    constructor <;> linarith

/-- Settles O42: a verdict of 1 is that of the buffer, so both range tests pass. -/
theorem validFrameIsInPhysicalRange : Obligations.ValidFrameIsInPhysicalRange := by
  intro cfg b hlatch hp hvalid
  obtain ⟨-, -, hhum, htemp⟩ := (verdictIsTheFourTests cfg b b (hlatch hp)).1 hvalid
  obtain ⟨hhum0, hhum100⟩ := humidityPercent_bounds ((humOK_iff _).2 hhum)
  exact ⟨hhum0, hhum100, temperatureCelsius_bounds ((tempOK_iff _).2 htemp)⟩

end Sys2Proof.Machine
end

section
/-!
SUPPORT. The result reads VALID, MISSING, GETBIT, HUMID, TEMP, RAWTEMP and PARITY, and the real observations
(spec/42_results.md R66–R72, R74).
-/

namespace Sys2Proof.Machine

/-! ### Admission of a result read (R38, R76) -/

/-- Only reads need the phase DECODED (R38). -/
theorem mem_reads_of_needs_decoded {m : Mnemonic} (hn : m.needs = some .decoded) : m ∈ Mnemonic.reads := by
  cases m with
  | sets | gets | seth | geth | setl | getl | clear | decode | status => cases hn
  | valid | missing | getbit | humid | temp | rawtemp | parity => decide

section
variable {i : Instr} (s : State) (hf : s.block.faulted = false) (hn : i.mnemonic.needs = some .decoded)
  (hin : ∀ n, i.mnemonic.limit = some n → i.idx.toNat < n)
include hf hn hin

/-- In DECODED, a result read with a legal index answers and changes no register (R66–R72). -/
theorem exec_result_of_decoded (hp : s.block.phase = .decoded) :
    exec i s = .next (s.answers (perform Config.hw i.mnemonic i.idx i.wdata s.block).2) := by
  have hphase : ∀ p, i.mnemonic.needs = some p → s.block.phase = p := by
    intro p hneeds
    rw [hp, ← Option.some_inj, ← hn, hneeds]
  rw [exec_of_admissible i s hf ⟨hin, hphase⟩, State.complete,
    perform_block_of_read _ _ _ _ (mem_reads_of_needs_decoded hn)]
  rfl

/-- In CAPTURE, a result read with a legal index faults with cause 3 (R75, R76). -/
theorem exec_result_of_capture (hp : s.block.phase = .capture) : exec i s = .next (s.faultedWith 3#4) := by
  have hindex : ¬ indexOut (some i.mnemonic) i.idx = true := by
    cases hl : i.mnemonic.limit with
    | none   => simp [indexOut, hl]
    | some n => simpa [indexOut, hl] using hin n hl
  have hwrite : ¬ (i.mnemonic.needs = some .capture ∧ s.block.phase = .decoded) := by simp [hn]
  rw [exec_eq_serve]
  apply serve_fault (c := .resultBeforeDecode)
  rw [admission_unfaulted _ _ _ hf (indexed_or_idx_zero i), if_neg hindex, if_neg hwrite, if_pos ⟨hn, hp⟩]

end

/-! ### The result reads without an index (R66, R67, R69–R72) -/

/-- The command `i` of row `m` reads `value` from the block as a result: its word, its answer in DECODED, and every
exception. -/
structure ReadsResult (m : Mnemonic) (i : Instr) (value : Block → Word) : Prop where
  decodes : ∀ w : Word, decodeRequest ⟨m.matchWord, w⟩ = .ok i
  answers : ∀ s : State, s.block.faulted = false → s.block.phase = .decoded →
    exec i s = .next (s.answers (value s.block))
  early   : ∀ s : State, s.block.faulted = false → s.block.phase = .capture → exec i s = .next (s.faultedWith 3#4)
  faulted : ∀ s : State, s.block.faulted = true → exec i s = .next s.reject
  illegal : ∀ (s : State) (r : Request), IllegalFixedForm m.op.toNat r.cmd → RefusesWord s r

/-- A row without an index that needs DECODED reads what its effect answers. -/
theorem readsResult {m : Mnemonic} {i : Instr} {value : Block → Word} (hi : ∀ w, m.instr 0#6 w = i)
    (hm : m.indexed = false) (hn : m.needs = some .decoded) (hl : m.limit = none)
    (hvalue : ∀ b, (perform Config.hw m 0#6 i.wdata b).2 = value b) : ReadsResult m i value := by
  obtain rfl : i.mnemonic = m := by rw [← hi 0#32, Mnemonic.instr_mnemonic]
  have hidx : i.idx = 0#6 := (indexed_or_idx_zero i).resolve_left (by simp [hm])
  have hin : ∀ n, i.mnemonic.limit = some n → i.idx.toNat < n := by simp [hl]
  constructor
  · intro w
    rw [matchWord_eq_append, decodeRequest_append _ _ _ (.inr rfl), hi]
  · intro s hf hp
    rw [exec_result_of_decoded s hf hn hin hp, hidx, hvalue]
  · exact fun s hf hp => exec_result_of_capture s hf hn hin hp
  · refine fun s hf => exec_of_faulted i s hf fun hstatus => ?_
    rw [hstatus] at hn
    cases hn
  · exact fun s r h => refusesWord_of_illegalFixedForm s _ hm h

/-! ### What the reads answer, as numbers (R5, R66–R72) -/

/-- A zero-extended field is the field's number. -/
theorem zext32_eq_ofNat {n : Nat} (v : BitVec n) : zext32 v = BitVec.ofNat 32 v.toNat :=
  (BitVec.ofNat_toNat 32 v).symm

/-- A zero-extended bit is 1 or 0. -/
theorem zext32_bitOf (x : Bool) : zext32 (bitOf x) = if x then 1#32 else 0#32 := by
  cases x <;> rfl

/-- The signed tenths by sign and magnitude (R70). -/
theorem signedTenths_eq (t : BitVec 16) :
    signedTenths t = if tSign t then -BitVec.ofNat 32 (tMag t) else BitVec.ofNat 32 (tMag t) := by
  rw [tMag, ← zext32_eq_ofNat]
  rfl

/-- Negation modulo 2^32, as R70 writes it. -/
theorem neg_ofNat_eq {n : Nat} (h : n < 2 ^ 32) :
    -BitVec.ofNat 32 n = BitVec.ofNat 32 ((2 ^ 32 - n) % 2 ^ 32) := by
  apply BitVec.eq_of_toNat_eq
  rw [BitVec.toNat_neg, BitVec.toNat_ofNat, BitVec.toNat_ofNat, Nat.mod_eq_of_lt h, Nat.mod_mod]

/-- The magnitude is at most 32767 (R56). -/
theorem tMag_lt (t : BitVec 16) : tMag t < 2 ^ 15 := (t.extractLsb' 0 15).isLt

/-- The signed tenths read as a signed number: the magnitude with the field's sign (R70, R74). -/
theorem signedTenths_toInt (t : BitVec 16) :
    (signedTenths t).toInt = (if tSign t then -1 else 1) * (tMag t : Int) := by
  have hmag := tMag_lt t
  have hnat : (BitVec.ofNat 32 (tMag t)).toNat = tMag t := Nat.mod_eq_of_lt (by omega)
  have hpos : (BitVec.ofNat 32 (tMag t)).toInt = tMag t := by rw [BitVec.toInt_eq_toNat_of_lt (by omega), hnat]
  rw [signedTenths_eq]
  split
  · rw [BitVec.toInt_neg, hpos, Int.bmod_eq_of_le (by omega) (by omega), neg_one_mul]
  · rw [hpos, one_mul]

/-! ### The results of a block that holds its own frame (R63) -/

section
variable {b : Block} {cfg : Config} (hlatch : latchFrame cfg b = b)
include hlatch

/-- Its count is at most 40 (R54). -/
theorem resMissing_le_of_latched : b.resMissing.toNat ≤ 40 := by
  have hcount := latchFrame_resMissing_toNat cfg b
  rw [hlatch] at hcount
  exact hcount ▸ missingCount_le cfg b

/-- Its verdict is 0 when a bit is missing (R61). -/
theorem resValid_of_latched_of_missing (h : 0 < b.resMissing.toNat) : b.resValid = false := by
  by_contra hvalid
  obtain ⟨hmissing, -⟩ := (verdictIsTheFourTests cfg b b hlatch).1 (Bool.eq_true_of_not_eq_false hvalid)
  simp [hmissing] at h

/-- Its verdict is 0 when the humidity is out of range (R59, R61). -/
theorem resValid_of_latched_of_humidity (h : 1000 < b.resHum.toNat) : b.resValid = false := by
  by_contra hvalid
  obtain ⟨-, -, hhum, -⟩ := (verdictIsTheFourTests cfg b b hlatch).1 (Bool.eq_true_of_not_eq_false hvalid)
  omega

/-- Its missing bits are 0 (R53). -/
theorem resBit_of_latched_of_missing (p : Fin 40) (h : classify cfg b.low[p] b.high[p] = .missing) :
    b.resBit[p] = false := by
  have hbit := latchFrame_bit_iff cfg b p
  rw [hlatch, h] at hbit
  simpa using hbit

end

/-! ### The obligations -/

/-- Settles O33: the answer is the verdict's bit. -/
theorem validReadsTheVerdict : Obligations.ValidReadsTheVerdict := by
  have hread : ReadsResult .valid .valid fun b => if b.resValid then 1#32 else 0#32 :=
    readsResult (fun _ => rfl) rfl rfl rfl fun b => zext32_bitOf b.resValid
  exact ⟨hread.decodes, fun s => ⟨hread.answers s, hread.early s, hread.faulted s, hread.illegal s⟩⟩

/-- Settles O34: the answer is the count, and a latched count is that of the classes. -/
theorem missingReadsTheCount : Obligations.MissingReadsTheCount := by
  have hread : ReadsResult .missing .missing fun b => BitVec.ofNat 32 b.resMissing.toNat :=
    readsResult (fun _ => rfl) rfl rfl rfl fun b => zext32_eq_ofNat b.resMissing
  refine ⟨hread.decodes, fun s => ⟨hread.answers s, fun hp hlatch => ?_, hread.early s, hread.faulted s,
    hread.illegal s⟩⟩
  exact ⟨resMissing_le_of_latched (hlatch hp), resValid_of_latched_of_missing (hlatch hp)⟩

/-- Settles O35: the answer is the bit at the index, and a latched bit is 1 only where the class is ONE. -/
theorem getbitReadsOneDecodedBit : Obligations.GetbitReadsOneDecodedBit := by
  refine fun s p v => ⟨?_, fun hf hp h => ?_, fun hf h => ?_, fun hf h hp => ?_, fun hf => ?_, fun r h => ?_,
    fun hlatch hp h hmissing => ?_⟩
  · exact decodeRequest_matchWord_add (m := .getbit) rfl p v
  · rw [← readBit_of_lt, ← zext32_bitOf]
    exact exec_result_of_decoded s hf rfl (by rintro _ ⟨⟩; exact h) hp
  · exact exec_of_limit_le s hf rfl h
  · exact exec_result_of_capture s hf rfl (by rintro _ ⟨⟩; exact h) hp
  · exact exec_of_faulted _ s hf nofun
  · exact refusesWord_of_illegalIndexedForm s h
  · exact resBit_of_latched_of_missing (hlatch hp) ⟨p.toNat, h⟩ hmissing

/-- HUMID reads the humidity field (R69). -/
theorem readsResult_humid : ReadsResult .humid .humid fun b => BitVec.ofNat 32 b.resHum.toNat :=
  readsResult (fun _ => rfl) rfl rfl rfl fun b => zext32_eq_ofNat b.resHum

/-- Settles O36: the answer is the field, and a latched verdict tests it. -/
theorem humidReadsTheHumidity : Obligations.HumidReadsTheHumidity :=
  ⟨readsResult_humid.decodes, fun s => ⟨readsResult_humid.answers s, readsResult_humid.early s,
    readsResult_humid.faulted s, readsResult_humid.illegal s,
    fun hlatch hp => resValid_of_latched_of_humidity (hlatch hp)⟩⟩

/-- TEMP reads the signed tenths (R70). -/
theorem readsResult_temp : ReadsResult .temp .temp fun b => signedTenths b.resTemp :=
  readsResult (fun _ => rfl) rfl rfl rfl fun _ => rfl

/-- Settles O37: the answer is the magnitude, negated where the sign is set. -/
theorem tempReadsTheSignedTenths : Obligations.TempReadsTheSignedTenths := by
  refine ⟨readsResult_temp.decodes, fun s => ⟨fun hf hp => ?_, readsResult_temp.early s, readsResult_temp.faulted s,
    readsResult_temp.illegal s⟩⟩
  have hmag := tMag_lt s.block.resTemp
  rw [readsResult_temp.answers s hf hp, signedTenths_eq, neg_ofNat_eq (by omega), tMag_eq]
  rfl

/-- Settles O38: the answer is the raw field. -/
theorem rawtempReadsTheRawField : Obligations.RawtempReadsTheRawField := by
  have hread : ReadsResult .rawtemp .rawtemp fun b => BitVec.ofNat 32 b.resTemp.toNat :=
    readsResult (fun _ => rfl) rfl rfl rfl fun b => zext32_eq_ofNat b.resTemp
  exact ⟨hread.decodes, fun s => ⟨hread.answers s, hread.early s, hread.faulted s, hread.illegal s⟩⟩

/-- Settles O39: the answer is the received byte. -/
theorem parityReadsTheReceivedByte : Obligations.ParityReadsTheReceivedByte := by
  have hread : ReadsResult .parity .parity fun b => BitVec.ofNat 32 b.resParity.toNat :=
    readsResult (fun _ => rfl) rfl rfl rfl fun b => zext32_eq_ofNat b.resParity
  exact ⟨hread.decodes, fun s => ⟨hread.answers s, hread.early s, hread.faulted s, hread.illegal s⟩⟩

/-- Settles O41: HUMID's answer is the field's number and TEMP's, read as signed, the magnitude with its sign. -/
theorem tenthsAreTheRealObservations : Obligations.TenthsAreTheRealObservations := by
  intro s hf hp
  have hhum : (BitVec.ofNat 32 s.block.resHum.toNat).toNat = s.block.resHum.toNat :=
    Nat.mod_eq_of_lt (by omega)
  have htemp := signedTenths_toInt s.block.resTemp
  have hmag := tMag_lt s.block.resTemp
  refine ⟨_, _, readsResult_humid.answers s hf hp, readsResult_temp.answers s hf hp, ?_, ?_, rfl, ?_, ?_⟩
  · rw [hhum, humidityPercent]
  · rw [htemp, temperatureCelsius]
    push_cast
    rfl
  · rw [temperatureCelsius, tMag_eq]
    rfl
  · rw [htemp]
    split <;> omega

end Sys2Proof.Machine
end

section
/-!
SUPPORT. Exceptions: what a faulted block does with a request, what a fault writes, which words each test of admission
is for, and a corrupted frame (spec/60_exceptions.md R75–R80).
-/

namespace Sys2Proof.Machine

/-! ### What a step does to the fault register (R77–R79) -/

/-- What a step of the machine does, with the block's part said by R42's step: wait, reset, or serve one request. -/
theorem step_cases_blockStep {s t : State} (h : step s = .next t) :
    (s.script = [] ∧ t = s)
    ∨ (∃ rest, s.script = .reset :: rest ∧ t = { block := Block.reset, script := rest, response := none })
    ∨ (∃ r rest, s.script = .request r :: rest
        ∧ t = { block    := (blockStep Config.hw s.block r).1
                script   := rest
                response := some (blockStep Config.hw s.block r).2 }) := by
  rw [step_eq_stepWith_hw] at h
  rcases stepWith_of_wf Config.hw s (by decide) with ⟨hs, h'⟩ | ⟨rest, hs, h'⟩ | ⟨r, rest, hs, h'⟩
  all_goals
    rw [h', Host.Outcome.next.injEq] at h
    subst h
  · exact .inl ⟨hs, rfl⟩
  · exact .inr (.inl ⟨rest, hs, rfl⟩)
  · exact .inr (.inr ⟨r, rest, hs, rfl⟩)

/-- A step takes at most one event from the host's script (R29, R90). -/
theorem script_of_step {s t : State} (h : step s = .next t) : t.script = s.script.tail := by
  rcases step_cases_blockStep h with ⟨hs, rfl⟩ | ⟨rest, hs, rfl⟩ | ⟨r, rest, hs, rfl⟩
  · rw [hs, List.tail_nil]
  · rw [hs, List.tail_cons]
  · rw [hs, List.tail_cons]

/-- No command performed writes FAULTED (R77, R79). -/
theorem perform_faulted (cfg : Config) (m : Mnemonic) (idx : Idx) (v : Word) (b : Block) :
    (perform cfg m idx v b).1.faulted = b.faulted := by
  cases m with
  | decode => exact latchFrame_faulted cfg b
  | _      => rfl

/-- No command performed writes CAUSE (R77, R79). -/
theorem perform_cause (cfg : Config) (m : Mnemonic) (idx : Idx) (v : Word) (b : Block) :
    (perform cfg m idx v b).1.cause = b.cause := by
  cases m with
  | decode => exact latchFrame_cause cfg b
  | _      => rfl

/-- A faulted block admits STATUS alone (R76, R78). -/
theorem eq_status_of_admitted_of_faulted {b : Block} {m : Mnemonic} {rsv : BitVec 5} {idx : Idx}
    (hf : b.faulted = true) (h : admission b (some m) rsv idx = .admitted) : m = .status := by
  unfold admission at h
  rw [if_pos hf] at h
  split_ifs at h with hstatus
  obtain ⟨-, rfl⟩ : legalWord (some m) rsv idx = true ∧ m = .status := by simpa using hstatus
  rfl

/-- No request changes a register of a faulted block: it takes no fault, and the one command it performs is a read
(R78, R79). -/
theorem blockStep_block_of_faulted (cfg : Config) {b : Block} (r : Request) (hf : b.faulted = true) :
    (blockStep cfg b r).1 = b := by
  rcases blockStep_cases cfg b r with ⟨-, h⟩ | ⟨c, hfault, -⟩ | ⟨m, -, hadmitted, h⟩
  · rw [h]
  · rw [unfaulted_of_admission_fault hfault] at hf
    cases hf
  · obtain rfl := eq_status_of_admitted_of_faulted hf hadmitted
    rw [h]
    rfl

/-- A request that takes an unfaulted block to a faulted one has taken a fault (R42, R77). -/
theorem blockStep_eq_faultEntry (cfg : Config) {b : Block} {r : Request} (hf : b.faulted = false)
    (hf' : (blockStep cfg b r).1.faulted = true) : ∃ c, blockStep cfg b r = (faultEntry b c, ⟨false, 0#32⟩) := by
  rcases blockStep_cases cfg b r with ⟨-, h⟩ | ⟨c, -, h⟩ | ⟨m, -, -, h⟩
  · rw [h, hf] at hf'
    cases hf'
  · exact ⟨c, h⟩
  · rw [h, perform_faulted, hf] at hf'
    cases hf'

/-- Settles O44: neither waiting nor a reset enters the fault state, and a request does by fault entry alone. -/
theorem faultEntryWritesOnlyTheFaultRegister : Obligations.FaultEntryWritesOnlyTheFaultRegister := by
  intro s t h hf hf'
  rcases step_cases_blockStep h with ⟨-, rfl⟩ | ⟨rest, -, rfl⟩ | ⟨r, rest, -, rfl⟩
  · rw [hf] at hf'
    cases hf'
  · cases hf'
  · obtain ⟨c, hc⟩ := blockStep_eq_faultEntry Config.hw hf hf'
    have hcode : 1 ≤ c.code.toNat := Nat.one_le_iff_ne_zero.2 fun h0 => c.code_ne_zero (BitVec.eq_of_toNat_eq h0)
    rw [hc]
    exact ⟨rfl, hcode, c.code_toNat_le, rfl⟩

/-- Settles O45: a faulted block waits, or serves a request, which changes none of its registers. -/
theorem onlyResetLeavesTheFaultState : Obligations.OnlyResetLeavesTheFaultState := by
  intro s t h hf hreset
  rcases step_cases_blockStep h with ⟨-, rfl⟩ | ⟨rest, hs, -⟩ | ⟨r, rest, -, rfl⟩
  · rfl
  · exact absurd hs (hreset rest)
  · exact blockStep_block_of_faulted Config.hw r hf

/-- A run of one step more begins with that step. -/
theorem run_succ_eq_next {k : Nat} {s t : State} (h : Host.Core.run Sys2Proof.core (k + 1) s = .next t) :
    ∃ u, step s = .next u ∧ Host.Core.run Sys2Proof.core k u = .next t := by
  obtain ⟨u, hu⟩ := stepAlwaysAnswersNext s
  have hcore : Sys2Proof.core.step s = .next u := hu
  simp only [Host.Core.run, hcore] at h
  exact ⟨u, hu, h⟩

/-- Settles O46, by induction on the number of steps: each keeps the block, and leaves no reset event in the script. -/
theorem faultIsStickyAlongEveryRun : Obligations.FaultIsStickyAlongEveryRun := by
  intro k
  induction k with
  | zero =>
    intro s t hf _ h
    obtain rfl : s = t := Host.Outcome.next.inj h
    exact ⟨rfl, by simp [State.Completed, hf]⟩
  | succ k ih =>
    intro s t hf hreset h
    obtain ⟨u, hstep, hrun⟩ := run_succ_eq_next h
    have hblock : u.block = s.block :=
      onlyResetLeavesTheFaultState s u hstep hf fun rest hs => hreset .reset (by simp [hs]) rfl
    have hscript : ∀ e ∈ u.script, e ≠ .reset := by
      rw [script_of_step hstep]
      exact fun e he => hreset e (List.mem_of_mem_tail he)
    rw [← hblock] at hf ⊢
    exact ih u t hf hscript hrun

/-! ### Admission by the command word (R75, R76, R78) -/

/-- The words of the opcode map are those the decoder takes (R38, R39). -/
theorem tableWord_iff (r : Request) : TableWord r.cmd ↔ ∃ i, decodeRequest r = .ok i := by
  have hlt := r.cmd.isLt
  rw [← not_iff_not, ← exists_decodeRequest_eq_error_iff, decodeRequest_eq_error_iff_toNat]
  simp only [TableWord, List.mem_cons, List.not_mem_nil, or_false]
  omega

/-- The words with an index outside its space, by row and index (R38, R75). -/
theorem outOfRangeWord_append_iff (m : Mnemonic) (idx : Idx) :
    OutOfRangeWord (m.op ++ 0#5 ++ idx) ↔ indexOut (some m) idx = true := by
  have hlt := idx.isLt
  rw [OutOfRangeWord, append_toNat, BitVec.toNat_ofNat]
  cases m with
  | sets | gets | seth | geth | setl | getl | getbit =>
    simp only [Mnemonic.op, indexOut, Option.bind_some, Mnemonic.limit, BitVec.toNat_ofNat, decide_eq_true_eq]
    omega
  | clear | decode | valid | missing | humid | temp | rawtemp | parity | status =>
    simp only [Mnemonic.op, indexOut, Option.bind_some, Mnemonic.limit, BitVec.toNat_ofNat, Bool.false_eq_true,
      iff_false]
    omega

/-- The words of the SETs are those of the rows that need CAPTURE (R38). -/
theorem setWord_append_iff_needs (m : Mnemonic) (idx : Idx) :
    SetWord (m.op ++ 0#5 ++ idx) ↔ m.needs = some .capture := by
  rw [setWord_append_iff]
  cases m <;> decide

/-- The words of the result reads are those of the rows that need DECODED (R38). -/
theorem resultWord_append_iff (m : Mnemonic) (idx : Idx) (hidx : m.indexed = true ∨ idx = 0#6) :
    ResultWord (m.op ++ 0#5 ++ idx) ↔ m.needs = some .decoded := by
  have hlt := idx.isLt
  rw [ResultWord, append_toNat, BitVec.toNat_ofNat]
  cases m with
  | getbit =>
    simp only [Mnemonic.op, Mnemonic.needs, BitVec.toNat_ofNat, iff_true]
    omega
  | valid | missing | humid | temp | rawtemp | parity =>
    obtain rfl := hidx.resolve_left (by decide)
    decide
  | sets | gets | seth | geth | setl | getl | clear | decode | status =>
    simp only [Mnemonic.op, Mnemonic.needs, BitVec.toNat_ofNat, Option.some.injEq, reduceCtorEq, iff_false]
    omega

/-- The word of STATUS is answered in every state, and changes no register (R73). -/
theorem step_of_statusWord (s : State) {r : Request} (h : r.cmd = 0x8000) :
    step (s.withRequest r) = .next (s.answers (statusWord s.block)) := by
  obtain ⟨c, w⟩ := r
  obtain rfl : c = 0x8000 := h
  obtain ⟨hdecode, -⟩ := statusReadsTheStatusWord
  rw [step_withRequest_ok s _ _ (hdecode w), exec_status]

/-- A word of the opcode map is served as its row's command (R38, R42). -/
theorem step_of_tableWord (s : State) {r : Request} (h : TableWord r.cmd) :
    ∃ (m : Mnemonic) (idx : Idx), (m.indexed = true ∨ idx = 0#6) ∧ r.cmd = m.op ++ 0#5 ++ idx
      ∧ step (s.withRequest r) = serve m idx (perform Config.hw m idx r.wdata) s := by
  obtain ⟨i, hi⟩ := (tableWord_iff r).1 h
  obtain ⟨m, idx, hidx, hcmd, rfl⟩ := (decodeRequest_eq_ok_iff_append r i).1 hi
  refine ⟨m, idx, hidx, hcmd, ?_⟩
  rw [step_withRequest_ok s r _ hi, exec_eq_serve, Mnemonic.instr_mnemonic, perform_instr, instr_idx _ hidx]

/-- A faulted block rejects every other word, legal or not (R78). -/
theorem step_of_faulted (s : State) {r : Request} (hf : s.block.faulted = true) (h : r.cmd ≠ 0x8000) :
    step (s.withRequest r) = .next s.reject := by
  by_cases htable : TableWord r.cmd
  · obtain ⟨m, idx, hidx, hcmd, hstep⟩ := step_of_tableWord s htable
    have hstatus : m ≠ .status := by
      rintro rfl
      rw [hcmd, hidx.resolve_left (by decide)] at h
      exact h rfl
    rw [hstep]
    apply serve_reject
    rw [admission_faulted _ _ _ hf hidx, if_neg hstatus]
  · rw [tableWord_iff, not_exists] at htable
    obtain ⟨-, hreject⟩ := refusesWord_of_not_decoded s htable
    exact hreject hf

/-- A word outside the opcode map faults an unfaulted block with cause 2 (R39, R76). -/
theorem step_of_not_tableWord (s : State) {r : Request} (hf : s.block.faulted = false) (h : ¬ TableWord r.cmd) :
    step (s.withRequest r) = .next (s.faultedWith 2#4) := by
  rw [tableWord_iff, not_exists] at h
  obtain ⟨hfault, -⟩ := refusesWord_of_not_decoded s h
  exact hfault hf

/-- Settles O43: on a word of the map, the tests on the word are those of admission on its row, in the same order. -/
theorem admissionFollowsThePriority : Obligations.AdmissionFollowsThePriority := by
  intro s r
  cases hf : s.block.faulted with
  | true =>
    rw [if_pos rfl]
    split_ifs with hstatus
    · exact ⟨_, step_of_statusWord s hstatus⟩
    · exact step_of_faulted s hf hstatus
  | false =>
    rw [if_neg Bool.false_ne_true]
    by_cases htable : TableWord r.cmd
    · obtain ⟨m, idx, hidx, hcmd, hstep⟩ := step_of_tableWord s htable
      have hadmission := admission_unfaulted s.block m idx hf hidx
      rw [if_neg (not_not.2 htable), hstep]
      simp only [hcmd, outOfRangeWord_append_iff, setWord_append_iff_needs, resultWord_append_iff m idx hidx]
      split_ifs at hadmission ⊢
      · exact serve_fault _ _ _ _ .outOfRange hadmission
      · exact serve_fault _ _ _ _ .writeAfterDecode hadmission
      · exact serve_fault _ _ _ _ .resultBeforeDecode hadmission
      · exact ⟨_, _, serve_admitted _ _ _ _ hadmission, rfl, (perform_faulted _ _ _ _ _).trans hf,
          perform_cause _ _ _ _ _, rfl⟩
    · rw [if_pos htable]
      exact step_of_not_tableWord s hf htable

/-! ### A corrupted frame (R80) -/

section
variable {b : Block} (hp : b.phase = .decoded)
include hp

/-- In DECODED with the verdict 1 the block reports a valid frame. -/
theorem report_of_valid (hvalid : b.resValid = true) : b.report = .validFrame := by
  simp only [Block.report, hp, hvalid, if_true]

/-- In DECODED with the verdict 0 it reports a corrupted one, with the count. -/
theorem report_of_invalid (hvalid : b.resValid = false) : b.report = .corruptedFrame b.resMissing.toNat := by
  simp only [Block.report, hp, hvalid, Bool.false_eq_true, if_false]

/-- So in DECODED it reports a valid frame exactly when the verdict is 1. -/
theorem report_eq_validFrame_iff : b.report = .validFrame ↔ b.resValid = true := by
  refine ⟨fun h => ?_, report_of_valid hp⟩
  by_contra hvalid
  rw [report_of_invalid hp (Bool.eq_false_of_not_eq_true hvalid)] at h
  cases h

end

/-- A position that is MISSING is counted by DECODE (R54). -/
theorem latchFrame_resMissing_pos {cfg : Config} {b : Block} (p : Fin 40)
    (h : classify cfg b.low[p] b.high[p] = .missing) : 0 < (latchFrame cfg b).resMissing.toNat := by
  rw [latchFrame_resMissing_toNat, Nat.pos_iff_ne_zero, Ne, missingCount_eq_zero_iff]
  exact fun hnone => hnone p p.isLt h

/-- Settles O32: DECODE is admitted and faults on no frame; a missing bit is counted, and makes the verdict 0. -/
theorem corruptedFrameIsAResult : Obligations.CorruptedFrameIsAResult := by
  intro s hf
  have hphase := latchFrame_phase Config.hw s.block
  refine ⟨_, exec_decode_of_unfaulted s hf, rfl, (latchFrame_faulted _ _).trans hf, hphase, ?_,
    report_eq_validFrame_iff hphase⟩
  rintro ⟨p, hp⟩
  have hcount := latchFrame_resMissing_pos p hp
  have hverdict := resValid_of_latched_of_missing (latchFrame_latchFrame Config.hw s.block) hcount
  exact ⟨hcount, hverdict, report_of_invalid hphase hverdict⟩

end Sys2Proof.Machine
end

section
/-!
SUPPORT. What the reset event does, and how CLEAR differs from it (spec/70_reset_and_hazards.md R86, R88).
-/

namespace Sys2Proof.Machine

/-- A step on the reset event, in every state: the block at its reset values, the host's later events kept (R86). -/
theorem step_of_reset {s : State} {rest : List HostEvent} (h : s.script = .reset :: rest) :
    step s = .next { block := Block.reset, script := rest, response := none } := by
  simp only [step, nextEvent, h, State.resetBlock]

/-- The one command word of CLEAR is its request, whatever the data word (R37, R44). -/
theorem step_of_clearWord (s : State) (w : Word) : step (s.withRequest ⟨0x3800, w⟩) = exec .clear s :=
  step_withRequest_ok s _ .clear (decodeRequest_append .clear 0#6 w (.inr rfl))

/-- Unfaulted, CLEAR leaves the block after reset but for the fault register (R44, R88). -/
theorem exec_clear_of_unfaulted (s : State) (hf : s.block.faulted = false) :
    exec .clear s =
      .next (s.becomes { Block.reset with faulted := s.block.faulted, cause := s.block.cause }) :=
  exec_of_admissible .clear s hf ⟨nofun, nofun⟩

/-- Settles O11: the reset event leaves `Block.reset`, which power-on has too. -/
theorem resetEventZeroesEveryRegister : Obligations.ResetEventZeroesEveryRegister :=
  ⟨fun _ _ h => ⟨_, step_of_reset h, rfl⟩, rfl⟩

/-- Settles O12: an unfaulted block performs CLEAR and a faulted one rejects it; the reset event works in both. -/
theorem resetAndClearDifferOnlyInTheFaultRegister : Obligations.ResetAndClearDifferOnlyInTheFaultRegister := by
  intro s w
  rw [step_of_clearWord]
  by_cases hf : s.block.faulted = true
  · refine ⟨_, _, exec_of_faulted .clear s hf nofun, step_of_reset rfl, rfl, rfl, fun hunfaulted => ?_,
      fun _ => ⟨rfl, rfl⟩⟩
    exact absurd hf (Bool.eq_false_iff.1 hunfaulted)
  · exact ⟨_, _, exec_clear_of_unfaulted s (Bool.eq_false_iff.2 hf), step_of_reset rfl, rfl, rfl, fun _ => rfl,
      fun hfaulted => absurd hfaulted hf⟩

/-- Settles O52: the block at power-on is the one the reset event leaves. -/
theorem invariantHoldsAtReset : Obligations.InvariantHoldsAtReset := inv_reset

end Sys2Proof.Machine
end

section
/-!
SUPPORT. Words of the opcode map written out bit by bit (spec/30_encoding.md R34, R38), and the host's side of a step
that takes no request (spec/70_reset_and_hazards.md R86, log entry 3).
-/

namespace Sys2Proof.Machine

/-- Settles O5: each word is its row's OP, RSV = 0 and an index the row allows. -/
theorem tableWordsDecodeToTheirCommands : Obligations.TableWordsDecodeToTheirCommands :=
  ⟨decodeRequest_append .sets 2#6 82#32 (.inl rfl),
    decodeRequest_append .setl 7#6 73#32 (.inl rfl),
    decodeRequest_append .getbit 39#6 5#32 (.inl rfl),
    decodeRequest_append .clear 0#6 0#32 (.inr rfl),
    decodeRequest_append .decode 0#6 0#32 (.inr rfl),
    decodeRequest_append .status 0#6 0#32 (.inr rfl)⟩

/-- With no event left in the host's script the block waits, and nothing changes (log entry 3). -/
theorem step_of_script_nil {s : State} (h : s.script = []) : step s = .next s := by
  simp only [step, nextEvent, h]

/-- Settles O9: the empty script is waiting, and the reset event takes itself alone from the script. -/
theorem hostSideOfWaitingAndReset : Obligations.HostSideOfWaitingAndReset := fun _ =>
  ⟨step_of_script_nil, fun _ h => ⟨_, step_of_reset h, rfl, rfl⟩⟩

end Sys2Proof.Machine
end
